-- ==== Sys2Proof/Word.lean ====
section
/-! DEFINITION. The word type of the block and the fixed constants of rule R9. -/

namespace Sys2Proof

/-- A 16-bit word: the width of `CW`, the operand words and every 16-bit register (R12, R49). -/
abbrev Word := BitVec 16

/-- The 17-bit result word `{NR, VAL[15:0]}` (R94). -/
abbrev ResultWord := BitVec 17

/-- DUTY_MAX: full scale of input, output and duty values (R9). -/
def dutyMax : Nat := 1000

/-- TMO_MAX: saturation threshold of the capture-timeout counter (R9). -/
def tmoMax : Nat := 2

/-- DC_CONSIST: consistency threshold of the DC-level debounce (R9). -/
def dcConsist : Nat := 3

/-- N_ROUND: rounds of one acquisition batch (R9). -/
def nRound : Nat := 4

/-- N_ADC: logical ADC channels (R9). -/
def nAdc : Nat := 3

end Sys2Proof
end

