-- ==== Sys2Proof/Syntax.lean ====
section
/-! DEFINITION. The syntax of the block: channels, ports, presented words, and the 22 operations of the
opcode table (R96), one constructor each. Selectors are the closed enumerations of R98, so a term of
`Instr` cannot name a channel that does not exist. -/

namespace Sys2Proof

/-- Capture channel, control channel or input pin 0 or 1 (R18, D6). -/
inductive Channel where
  | ch0
  | ch1
deriving DecidableEq, Repr, Inhabited

/-- Logical ADC channel 0, 1 or 2 (R18, D6). -/
inductive AdcChannel where
  | bandSelect1
  | bandSelect2
  | powerLimit
deriving DecidableEq, Repr, Inhabited

/-- The two ports that take an operation word (R90). -/
inductive Port where
  | command
  | event
deriving DecidableEq, Repr, Inhabited

/-- An operation as it is presented: the operation word and the three operand words (R90). -/
structure OpWord where
  /-- `CW` -/
  cw : Word
  /-- `OPA` -/
  opa : Word
  /-- `OPB` -/
  opb : Word
  /-- `OPC` -/
  opc : Word
deriving DecidableEq, Repr, Inhabited

/-- One entry of the trace that drives the block: a word presented on a port, or an assertion of the
reset input `RST` (R90, R270). -/
inductive Input where
  /-- `(CW, OPA, OPB, OPC)` presented on a port -/
  | word (port : Port) (w : OpWord)
  /-- `RST` asserted -/
  | rst
deriving DecidableEq, Repr, Inhabited

/-- The operations of the block (R96), with exactly the selector, flag and operand words that R96 lists
for each. -/
inductive Instr where
  /-- R216 -/
  | nop
  /-- R217 -/
  | cycle
  /-- R220 -/
  | ustep
  /-- R121 -/
  | adcStart (force : Bool)
  /-- R122 -/
  | adcRead (c : AdcChannel)
  /-- R141 -/
  | capStart (ch : Channel)
  /-- R142 -/
  | capStop (ch : Channel)
  /-- R143 -/
  | capRead (ch : Channel)
  /-- R161 -/
  | ldband (c : AdcChannel)
  /-- R165; `x` is `OPA` -/
  | lockStep (k : Channel) (x : Word)
  /-- R167 -/
  | dcdStep (k : Channel) (level : Bool)
  /-- R169 -/
  | cond (k : Channel)
  /-- R173 -/
  | plim (k : Channel)
  /-- R174 -/
  | outg (k : Channel)
  /-- R175 -/
  | chan (k : Channel)
  /-- R201; `initial` is `OPA`, `length` is `OPB` -/
  | ewInit (k : Channel) (enabled : Bool) (initial length : Word)
  /-- R202; `value` is `OPA` -/
  | ewReset (k : Channel) (value : Word)
  /-- R203; `sample`, `deadBand`, `maxError` are `OPA`, `OPB`, `OPC` -/
  | ewUpdate (k : Channel) (enabled : Bool) (sample deadBand maxError : Word)
  /-- R123; `raw` is `OPA` -/
  | evAdc (raw : Word)
  /-- R144; `time` is `OPA` -/
  | evRise (ch : Channel) (time : Word)
  /-- R145; `time` is `OPA` -/
  | evFall (ch : Channel) (time : Word)
  /-- R176 -/
  | evPin (k : Channel) (level : Bool)
deriving DecidableEq, Repr, Inhabited

/-- The port that accepts an operation: the event port takes the four events, the command port all
others (R90). -/
def Instr.port : Instr → Port
  | .evAdc _ | .evRise _ _ | .evFall _ _ | .evPin _ _ => .event
  | .nop | .cycle | .ustep | .adcStart _ | .adcRead _ | .capStart _ | .capStop _ | .capRead _
  | .ldband _ | .lockStep _ _ | .dcdStep _ _ | .cond _ | .plim _ | .outg _ | .chan _
  | .ewInit _ _ _ _ | .ewReset _ _ | .ewUpdate _ _ _ _ _ => .command

end Sys2Proof
end

