-- ==== Sys2Proof/Config.lean ====
section
/-! DEFINITION. The configuration record CFG (R10), its constraints (R11), the reference instance REF,
and the opaque constants that stand for what the spec leaves open. -/

namespace Sys2Proof

/-- The registers of a port that takes an operation (R90, R92). -/
inductive PortRegister where
  | cw | opa | opb | opc
deriving DecidableEq, Repr, Inhabited

/-- The ports of the block that D1 names: what the open parameter PORT_MAP maps. DESIGN CHOICE (log 20): the spec
gives PORT_MAP no type ("Where the ports appear in a system's address space is left to the platform", R72); that
its domain is this list, a port's word and operand words each an entry of its own, is the model's. -/
inductive InterfacePort where
  | command (r : PortRegister)
  | event (r : PortRegister)
  /-- RES -/
  | result
  | adcReq
  | adcChsel
  | duty (k : Channel)
  | dutyWr (k : Channel)
  | busy
  | pinLvl (k : Channel)
  | rst
deriving DecidableEq, Repr, Inhabited

/-- The configuration record CFG: one field per parameter of R10 (and PORT_MAP of R72), constant for an
instance of the block and written by no operation (R7). -/
structure Config where
  /-- TIMER_WRAP, the wrap width `W` of the capture counter -/
  timerWrap : Nat
  lockLowEnter : Nat
  lockHighEnter : Nat
  lockLowExit : Nat
  lockHighExit : Nat
  nEnter : Nat
  mExit : Nat
  changeWindow : Nat
  outGate : Nat
  /-- EWMA_LEN, S16 -/
  ewmaLen : Word
  /-- EWMA_DEAD_BAND, S16 -/
  ewmaDeadBand : Word
  /-- EWMA_MAX_ERR, S16 -/
  ewmaMaxErr : Word
  ewmaEnable : Bool
  /-- TIER_NUM[t], indexed by the tier code of R44 -/
  tierNum : BitVec 2 → Nat
  /-- TIER_DEN[t] -/
  tierDen : BitVec 2 → Nat
  /-- CAP_SCALE: captured tick count to the 0..1000 duty domain -/
  capScale : Word → Nat
  /-- BAND_DECODE: published band-select count to the band code of R42. DESIGN CHOICE (log 12): its
  argument is the whole published word, so above 1023, where the spec states no value, it is free. -/
  bandDecode : Word → BitVec 3
  /-- TIER_DECODE: published power-limit count to the tier code of R44; its argument as above (log 12) -/
  tierDecode : Word → BitVec 2
  /-- T_CYCLE; no rule depends on it. DESIGN CHOICE (log 20): a whole number of microseconds -/
  tCycleMicros : Nat
  /-- PORT_MAP; used by no rule (R72). DESIGN CHOICE (log 20): a number for each port, of any meaning -/
  portMap : InterfacePort → Nat

/-- The constraints every CFG meets (R11, and the ranges of R10's type column). The ranges of
BAND_DECODE and TIER_DECODE are their types. -/
structure Config.Wf (c : Config) : Prop where
  timerWrap_eq : c.timerWrap = 65536
  lowEnter_le_lowExit : c.lockLowEnter ≤ c.lockLowExit
  lowExit_lt_highExit : c.lockLowExit < c.lockHighExit
  highExit_le_highEnter : c.lockHighExit ≤ c.lockHighEnter
  highEnter_le : c.lockHighEnter ≤ dutyMax
  nEnter_pos : 1 ≤ c.nEnter
  nEnter_lt_mExit : c.nEnter < c.mExit
  mExit_le : c.mExit ≤ 255
  changeWindow_le : c.changeWindow ≤ dutyMax
  outGate_le : c.outGate ≤ dutyMax
  tierDen_pos : ∀ t, 0 < c.tierDen t
  tierNum_le : ∀ t, c.tierNum t ≤ c.tierDen t
  capScale_le : ∀ d, c.capScale d ≤ dutyMax

/-- REF, the reference instance of R10, used by the spec's test vectors only. -/
def Config.ref : Config where
  timerWrap := 65536
  lockLowEnter := 10
  lockHighEnter := 990
  lockLowExit := 20
  lockHighExit := 980
  nEnter := 2
  mExit := 5
  changeWindow := 5
  outGate := 5
  ewmaLen := 4
  ewmaDeadBand := 10
  ewmaMaxErr := 100
  ewmaEnable := true
  tierNum t := if t = 0 then 667 else if t = 1 then 833 else 1000
  tierDen _ := 1000
  capScale d := min d.toNat 1000
  bandDecode v := BitVec.ofNat 3 (min 5 ((v.toNat * 6) >>> 10))
  tierDecode v := BitVec.ofNat 2 (min 2 ((v.toNat * 3) >>> 10))
  tCycleMicros := 5000
  portMap _ := 0

/-- REF meets R11. -/
theorem Config.ref_wf : Config.ref.Wf where
  timerWrap_eq := rfl
  lowEnter_le_lowExit := by decide
  lowExit_lt_highExit := by decide
  highExit_le_highEnter := by decide
  highEnter_le := by decide
  nEnter_pos := by decide
  nEnter_lt_mExit := by decide
  mExit_le := by decide
  changeWindow_le := by decide
  outGate_le := by decide
  tierDen_pos := by decide
  tierNum_le := by decide
  capScale_le := fun _ => Nat.min_le_right _ _

/-- A configuration record together with the proof that it meets R11 (a record outside the constraints
is refused, U9). -/
structure WfConfig where
  config : Config := Config.ref
  wf : config.Wf := by exact Config.ref_wf
deriving Inhabited

/-- The instance of CFG this block was built with: ANY record that meets R11. It has no body, so nothing
can be proved of it but what R11 says (R10, U10; log 1). -/
opaque Config.chosen : WfConfig

/-- CFG, the configuration record of this instance (R10). -/
def CFG : Config := Config.chosen.config

/-- CFG meets R11. -/
theorem CFG_wf : CFG.Wf := Config.chosen.wf

/-- The level of input pin `k` before the first EV_PIN: "any value" (U1, R47, R54). DESIGN CHOICE: a free
value (log 2). -/
opaque Config.pinAtPowerOn : Channel → Bool

/-- The interrupt sources of R245. -/
inductive InterruptSource where
  | adcComplete
  | captureRise (ch : Channel)
  | captureFall (ch : Channel)
  | periodicTimer
  | diagnosticSerial
deriving DecidableEq, Repr, Inhabited

/-- The ranked rows of the priority table of R246; rank 0 is the highest, and the four capture sources have no order
among them. -/
def Config.priorityRank : InterruptSource → Nat
  | .adcComplete => 0
  | .captureRise _ | .captureFall _ => 1
  | .periodicTimer => 2
  | .diagnosticSerial => 3

/-- The two execution contexts (R251): the handler of an interrupt source, and mainline. -/
inductive ExecutionContext where
  | handler (source : InterruptSource)
  /-- commands and micro-steps -/
  | mainline
deriving DecidableEq, Repr, Inhabited

/-- The whole priority table of R246: a handler outranks the handlers of a larger rank, and mainline, the row "below
all", outranks nothing and is outranked by every handler (R249). It orders what is due at once (R247); the block sees
it already ordered, in its trace (log 19). -/
def Config.outranks : ExecutionContext → ExecutionContext → Bool
  | .handler a, .handler b => Config.priorityRank a < Config.priorityRank b
  | .handler _, .mainline => true
  | .mainline, .handler _ => false
  | .mainline, .mainline => false

/-- The context an operation runs in: mainline for commands and micro-steps, the handler of its source for an event
(R245, R246). EV_PIN is no interrupt (R245) and has no row in the table. -/
def Instr.context : Instr → Option ExecutionContext
  | .nop | .cycle | .ustep | .adcStart _ | .adcRead _ | .capStart _ | .capStop _ | .capRead _
  | .ldband _ | .lockStep _ _ | .dcdStep _ _ | .cond _ | .plim _ | .outg _ | .chan _
  | .ewInit _ _ _ _ | .ewReset _ _ | .ewUpdate _ _ _ _ _ => some .mainline
  | .evAdc _ => some (.handler .adcComplete)
  | .evRise ch _ => some (.handler (.captureRise ch))
  | .evFall ch _ => some (.handler (.captureFall ch))
  | .evPin _ _ => none

end Sys2Proof
end

