-- ==== Sys2Proof/WellFormed.lean ====
section
/-! DEFINITION. Well-formedness of what is presented on a port: the opcode table of R96 with its match,
mask and legal selectors, and the checks of R97 to R99 against it.

A term of `Instr` needs no check of its own: its selectors are closed enumerations and its operands whole
words (R98), so every term is well-formed. What can be ill-formed is a bit pattern on a port, checked here,
and a configuration record, checked by `Config.Wf` (R11). -/

namespace Sys2Proof

/-- One row of R96: a word `w` selects it iff `w &&& mask = pattern`, and it accepts the selectors
`sels`. -/
structure OpcodeRow where
  mnemonic : String
  /-- the column "match" -/
  pattern : Word
  mask : Word
  /-- the column "SEL legal"; `[0]` where the row has no selector -/
  sels : List Nat
deriving DecidableEq, Repr

/-- Units SYS and ADC of R96. -/
def opcodeTableSysAdc : List OpcodeRow := [
  ⟨"NOP", 0x0000, 0xFFFF, [0]⟩,
  ⟨"CYCLE", 0x0100, 0xFFFF, [0]⟩,
  ⟨"USTEP", 0x0200, 0xFFFF, [0]⟩,
  ⟨"ADC_START", 0x1000, 0xFFFE, [0]⟩,
  ⟨"ADC_READ", 0x1100, 0xFFF3, [0, 1, 2]⟩]

/-- Unit CAP of R96. -/
def opcodeTableCap : List OpcodeRow := [
  ⟨"CAP_START", 0x2000, 0xFFF3, [0, 1]⟩,
  ⟨"CAP_STOP", 0x2100, 0xFFF3, [0, 1]⟩,
  ⟨"CAP_READ", 0x2200, 0xFFF3, [0, 1]⟩]

/-- Unit CND of R96. -/
def opcodeTableCnd : List OpcodeRow := [
  ⟨"LDBAND", 0x3000, 0xFFF3, [0, 1, 2]⟩,
  ⟨"LOCK_STEP", 0x3100, 0xFFF3, [0, 1]⟩,
  ⟨"DCD_STEP", 0x3200, 0xFFF2, [0, 1]⟩,
  ⟨"COND", 0x3300, 0xFFF3, [0, 1]⟩,
  ⟨"PLIM", 0x3400, 0xFFF3, [0, 1]⟩,
  ⟨"OUTG", 0x3500, 0xFFF3, [0, 1]⟩,
  ⟨"CHAN", 0x3600, 0xFFF3, [0, 1]⟩]

/-- Units EW and EVT of R96. -/
def opcodeTableEwEvt : List OpcodeRow := [
  ⟨"EW_INIT", 0x4000, 0xFFF2, [0, 1]⟩,
  ⟨"EW_RESET", 0x4100, 0xFFF3, [0, 1]⟩,
  ⟨"EW_UPDATE", 0x4200, 0xFFF2, [0, 1]⟩,
  ⟨"EV_ADC", 0xE000, 0xFFFF, [0]⟩,
  ⟨"EV_RISE", 0xE100, 0xFFF3, [0, 1]⟩,
  ⟨"EV_FALL", 0xE200, 0xFFF3, [0, 1]⟩,
  ⟨"EV_PIN", 0xE300, 0xFFF2, [0, 1]⟩]

/-- The complete operation list of R96. -/
def opcodeTable : List OpcodeRow :=
  opcodeTableSysAdc ++ opcodeTableCap ++ opcodeTableCnd ++ opcodeTableEwEvt

/-- A word selects a row (R96). -/
def OpcodeRow.selects (r : OpcodeRow) (w : Word) : Bool := w &&& r.mask == r.pattern

/-- The selector check of R98: `SEL`, bits 3:2 of the word, is one the row accepts. -/
def OpcodeRow.selLegal (r : OpcodeRow) (w : Word) : Bool := r.sels.contains ((w.toNat / 4) % 4)

/-- A word is legal iff it selects a row and its selector is legal there; every other word is reserved
(R97 to R99). -/
def wordLegal (w : Word) : Bool := opcodeTable.any fun r => r.selects w && r.selLegal w

/-- The units a port accepts (R90): 0x0 to 0x4 on the command port, 0xE on the event port. -/
def portAcceptsUnit (p : Port) (w : Word) : Bool :=
  match p with
  | .command => w.toNat / 4096 ≤ 4
  | .event => w.toNat / 4096 == 0xE

/-- An entry of the trace is well-formed iff it is a reset, or a legal word on the port that accepts it
(R97). -/
def Input.wellFormed : Input → Bool
  | .rst => true
  | .word p w => wordLegal w.cw && portAcceptsUnit p w.cw

end Sys2Proof
end

