-- ==== Sys2Proof/Decode.lean ====
section
/-! DEFINITION. Decoding of a presented word (R91, R97 to R99) and its encoder (R96, R101). Decoding is
total and rejects by name. -/

namespace Sys2Proof

/-- Why a word has no operation: it matches no row of R96 and is reserved (R99), or, `illegalSelector` alone, it
matches a row whose selectors do not include its `SEL` (R98). Raised by `decode` only; what the block then does
says `Machine.classify`. -/
inductive DecodeError where
  /-- `Z1 != 0` -/
  | reservedZ1
  /-- `Z0 = 1` -/
  | reservedZ0
  /-- a unit code 0x5 to 0xD or 0xF -/
  | reservedUnit
  /-- a function code the unit does not use -/
  | reservedFunc
  /-- a non-zero `SEL` where the row has no selector: no row matches -/
  | reservedSelector
  /-- a row matches, and its `SEL` names a channel that does not exist (R98) -/
  | illegalSelector
  /-- `FLG = 1` where the row has no flag: no row matches -/
  | illegalFlag
deriving DecidableEq, Repr

/-- UNIT, bits 15:12 (R91). -/
def unitOf (cw : Word) : Nat := cw.toNat / 4096

/-- FUNC, bits 11:8 (R91). -/
def funcOf (cw : Word) : Nat := cw.toNat / 256 % 16

/-- Z1, bits 7:4 (R91). -/
def z1Of (cw : Word) : Nat := cw.toNat / 16 % 16

/-- SEL, bits 3:2 (R91). -/
def selOf (cw : Word) : Nat := cw.toNat / 4 % 4

/-- Z0, bit 1 (R91). -/
def z0Of (cw : Word) : Nat := cw.toNat / 2 % 2

/-- FLG, bit 0 (R91). -/
def flgOf (cw : Word) : Bool := cw.toNat % 2 == 1

/-- A capture, control or pin selector (R98). -/
def channelOfSel : Nat → Option Channel
  | 0 => some .ch0
  | 1 => some .ch1
  | _ => none

/-- A logical ADC channel selector (R98). -/
def adcChannelOfSel : Nat → Option AdcChannel
  | 0 => some .bandSelect1
  | 1 => some .bandSelect2
  | 2 => some .powerLimit
  | _ => none

/-- A row with neither selector nor flag: both fields must be zero (R91). -/
def bareRow (i : Instr) (sel : Nat) (flg : Bool) : Except DecodeError Instr :=
  if sel ≠ 0 then .error .reservedSelector else if flg then .error .illegalFlag else .ok i

/-- A row with a flag and no selector (R91). -/
def flagRow (f : Bool → Instr) (sel : Nat) (flg : Bool) : Except DecodeError Instr :=
  if sel ≠ 0 then .error .reservedSelector else .ok (f flg)

/-- A row whose selector is a capture, control or pin channel and that has a flag (R91, R98). -/
def channelFlagRow (f : Channel → Bool → Instr) (sel : Nat) (flg : Bool) : Except DecodeError Instr :=
  match channelOfSel sel with
  | none => .error .illegalSelector
  | some k => .ok (f k flg)

/-- A row whose selector is a capture, control or pin channel, without flag: with `FLG = 1` no row matches, which
comes before the selector check (R91, R97, R98). -/
def channelRow (f : Channel → Instr) (sel : Nat) (flg : Bool) : Except DecodeError Instr :=
  if flg then .error .illegalFlag
  else match channelOfSel sel with
    | none => .error .illegalSelector
    | some k => .ok (f k)

/-- A row whose selector is a logical ADC channel, without flag (R91, R97, R98). -/
def adcChannelRow (f : AdcChannel → Instr) (sel : Nat) (flg : Bool) : Except DecodeError Instr :=
  if flg then .error .illegalFlag
  else match adcChannelOfSel sel with
    | none => .error .illegalSelector
    | some c => .ok (f c)

/-- Unit 0x0, SYS (R95, R96). -/
def decodeSys (func sel : Nat) (flg : Bool) : Except DecodeError Instr :=
  match func with
  | 0 => bareRow .nop sel flg
  | 1 => bareRow .cycle sel flg
  | 2 => bareRow .ustep sel flg
  | _ => .error .reservedFunc

/-- Unit 0x1, ADC (R95, R96). -/
def decodeAdc (func sel : Nat) (flg : Bool) : Except DecodeError Instr :=
  match func with
  | 0 => flagRow .adcStart sel flg
  | 1 => adcChannelRow .adcRead sel flg
  | _ => .error .reservedFunc

/-- Unit 0x2, CAP (R95, R96). -/
def decodeCap (func sel : Nat) (flg : Bool) : Except DecodeError Instr :=
  match func with
  | 0 => channelRow .capStart sel flg
  | 1 => channelRow .capStop sel flg
  | 2 => channelRow .capRead sel flg
  | _ => .error .reservedFunc

/-- Unit 0x3, CND (R95, R96). -/
def decodeCnd (w : OpWord) (func sel : Nat) (flg : Bool) : Except DecodeError Instr :=
  match func with
  | 0 => adcChannelRow .ldband sel flg
  | 1 => channelRow (fun k => .lockStep k w.opa) sel flg
  | 2 => channelFlagRow .dcdStep sel flg
  | 3 => channelRow .cond sel flg
  | 4 => channelRow .plim sel flg
  | 5 => channelRow .outg sel flg
  | 6 => channelRow .chan sel flg
  | _ => .error .reservedFunc

/-- Unit 0x4, EW (R95, R96). -/
def decodeEw (w : OpWord) (func sel : Nat) (flg : Bool) : Except DecodeError Instr :=
  match func with
  | 0 => channelFlagRow (fun k e => .ewInit k e w.opa w.opb) sel flg
  | 1 => channelRow (fun k => .ewReset k w.opa) sel flg
  | 2 => channelFlagRow (fun k e => .ewUpdate k e w.opa w.opb w.opc) sel flg
  | _ => .error .reservedFunc

/-- Unit 0xE, EVT (R93, R95, R96). -/
def decodeEvt (w : OpWord) (func sel : Nat) (flg : Bool) : Except DecodeError Instr :=
  match func with
  | 0 => bareRow (.evAdc w.opa) sel flg
  | 1 => channelRow (fun k => .evRise k w.opa) sel flg
  | 2 => channelRow (fun k => .evFall k w.opa) sel flg
  | 3 => channelFlagRow .evPin sel flg
  | _ => .error .reservedFunc

/-- The unit's decoder (R95). -/
def decodeUnit (w : OpWord) (unit func sel : Nat) (flg : Bool) : Except DecodeError Instr :=
  match unit with
  | 0x0 => decodeSys func sel flg
  | 0x1 => decodeAdc func sel flg
  | 0x2 => decodeCap func sel flg
  | 0x3 => decodeCnd w func sel flg
  | 0x4 => decodeEw w func sel flg
  | 0xE => decodeEvt w func sel flg
  | _ => .error .reservedUnit

/-- Decode a presented word: the row of R96 it selects, with its selector checked (R97, R98), or the
reason it has no operation (R98, R99). -/
def decode (w : OpWord) : Except DecodeError Instr :=
  if z1Of w.cw ≠ 0 then .error .reservedZ1
  else if z0Of w.cw ≠ 0 then .error .reservedZ0
  else decodeUnit w (unitOf w.cw) (funcOf w.cw) (selOf w.cw) (flgOf w.cw)

/-- SEL of a capture, control or pin channel (R18, D6). -/
def Channel.sel : Channel → Nat
  | .ch0 => 0
  | .ch1 => 1

/-- SEL of a logical ADC channel (R18, D6). -/
def AdcChannel.sel : AdcChannel → Nat
  | .bandSelect1 => 0
  | .bandSelect2 => 1
  | .powerLimit => 2

/-- Format F of R91 with Z1 = 0 and Z0 = 0. -/
def formatF (unit func sel : Nat) (flg : Bool) : Word :=
  BitVec.ofNat 16 (unit * 4096 + func * 256 + sel * 4 + flg.toNat)

/-- The operation word of an operation (R96). -/
def encodeCw : Instr → Word
  | .nop => formatF 0x0 0 0 false
  | .cycle => formatF 0x0 1 0 false
  | .ustep => formatF 0x0 2 0 false
  | .adcStart force => formatF 0x1 0 0 force
  | .adcRead c => formatF 0x1 1 c.sel false
  | .capStart ch => formatF 0x2 0 ch.sel false
  | .capStop ch => formatF 0x2 1 ch.sel false
  | .capRead ch => formatF 0x2 2 ch.sel false
  | .ldband c => formatF 0x3 0 c.sel false
  | .lockStep k _ => formatF 0x3 1 k.sel false
  | .dcdStep k level => formatF 0x3 2 k.sel level
  | .cond k => formatF 0x3 3 k.sel false
  | .plim k => formatF 0x3 4 k.sel false
  | .outg k => formatF 0x3 5 k.sel false
  | .chan k => formatF 0x3 6 k.sel false
  | .ewInit k enabled _ _ => formatF 0x4 0 k.sel enabled
  | .ewReset k _ => formatF 0x4 1 k.sel false
  | .ewUpdate k enabled _ _ _ => formatF 0x4 2 k.sel enabled
  | .evAdc _ => formatF 0xE 0 0 false
  | .evRise ch _ => formatF 0xE 1 ch.sel false
  | .evFall ch _ => formatF 0xE 2 ch.sel false
  | .evPin k level => formatF 0xE 3 k.sel level

/-- OPA of an operation; 0 where it has none (R96, R101). -/
def encodeOpa : Instr → Word
  | .lockStep _ x => x
  | .ewInit _ _ initial _ => initial
  | .ewReset _ value => value
  | .ewUpdate _ _ sample _ _ => sample
  | .evAdc raw => raw
  | .evRise _ time => time
  | .evFall _ time => time
  | .nop | .cycle | .ustep | .adcStart _ | .adcRead _ | .capStart _ | .capStop _ | .capRead _
  | .ldband _ | .dcdStep _ _ | .cond _ | .plim _ | .outg _ | .chan _ | .evPin _ _ => 0

/-- OPB of an operation; 0 where it has none (R96, R101). -/
def encodeOpb : Instr → Word
  | .ewInit _ _ _ length => length
  | .ewUpdate _ _ _ deadBand _ => deadBand
  | .nop | .cycle | .ustep | .adcStart _ | .adcRead _ | .capStart _ | .capStop _ | .capRead _
  | .ldband _ | .lockStep _ _ | .dcdStep _ _ | .cond _ | .plim _ | .outg _ | .chan _ | .ewReset _ _
  | .evAdc _ | .evRise _ _ | .evFall _ _ | .evPin _ _ => 0

/-- OPC of an operation; 0 where it has none (R96, R101). -/
def encodeOpc : Instr → Word
  | .ewUpdate _ _ _ _ maxError => maxError
  | .nop | .cycle | .ustep | .adcStart _ | .adcRead _ | .capStart _ | .capStop _ | .capRead _
  | .ldband _ | .lockStep _ _ | .dcdStep _ _ | .cond _ | .plim _ | .outg _ | .chan _
  | .ewInit _ _ _ _ | .ewReset _ _ | .evAdc _ | .evRise _ _ | .evFall _ _ | .evPin _ _ => 0

/-- The encoding of an operation: the 4-tuple of R101, unused operands written 0. -/
def encode (i : Instr) : OpWord := ⟨encodeCw i, encodeOpa i, encodeOpb i, encodeOpc i⟩

/-- The mnemonic of an operation (R96). -/
def Instr.mnemonic : Instr → String
  | .nop => "NOP"
  | .cycle => "CYCLE"
  | .ustep => "USTEP"
  | .adcStart _ => "ADC_START"
  | .adcRead _ => "ADC_READ"
  | .capStart _ => "CAP_START"
  | .capStop _ => "CAP_STOP"
  | .capRead _ => "CAP_READ"
  | .ldband _ => "LDBAND"
  | .lockStep _ _ => "LOCK_STEP"
  | .dcdStep _ _ => "DCD_STEP"
  | .cond _ => "COND"
  | .plim _ => "PLIM"
  | .outg _ => "OUTG"
  | .chan _ => "CHAN"
  | .ewInit _ _ _ _ => "EW_INIT"
  | .ewReset _ _ => "EW_RESET"
  | .ewUpdate _ _ _ _ _ => "EW_UPDATE"
  | .evAdc _ => "EV_ADC"
  | .evRise _ _ => "EV_RISE"
  | .evFall _ _ => "EV_FALL"
  | .evPin _ _ => "EV_PIN"

/-- The port a word is for, by its UNIT: the event port takes the event words, those of unit 0xE, and the command
port the others (R90, R93). -/
def portOfWord (cw : Word) : Port := if unitOf cw = 0xE then .event else .command

/-- The presented word whose bits are `w`, `CW` in bits 15:0, then `OPA`, `OPB`, `OPC` (log 24); bits at or
above `nbits` are 0. -/
def tableOpWord (nbits w : Nat) : OpWord :=
  let v := w % 2 ^ nbits
  ⟨BitVec.ofNat 16 v, BitVec.ofNat 16 (v / 2 ^ 16), BitVec.ofNat 16 (v / 2 ^ 32), BitVec.ofNat 16 (v / 2 ^ 48)⟩

/-- The operation the decoder reads from the bits of an opcode-table word. -/
def decodeTableWord (nbits w : Nat) : Option Instr :=
  match decode (tableOpWord nbits w) with
  | .ok i => some i
  | .error _ => none

end Sys2Proof
end

