-- ==== Sys2Proof/Machine/State.lean ====
section
/-! DEFINITION. The state of the block (R20 to R50), its reset value (R54), and the reasons a step can
stop (none: R240). -/

namespace Sys2Proof.Machine

/-- Two like records, one for each capture, control or pin channel (R50). -/
structure Pair (α : Type) where
  ch0 : α
  ch1 : α
deriving DecidableEq, Repr, Inhabited

/-- One value for each of the three logical ADC channels. -/
structure Trio (α : Type) where
  c0 : α
  c1 : α
  c2 : α
deriving DecidableEq, Repr, Inhabited

/-- The pending-sample grid ADC.GRID: four rounds of three 16-bit cells (R21, R60). -/
structure Grid where
  round0 : Trio Word
  round1 : Trio Word
  round2 : Trio Word
  round3 : Trio Word
deriving DecidableEq, Repr, Inhabited

/-- The ADC averaging engine (R21 to R26). -/
structure AdcUnit where
  /-- ADC.GRID -/
  grid : Grid
  /-- ADC.ROUND -/
  round : BitVec 3
  /-- ADC.CHAN -/
  chan : BitVec 2
  /-- ADC.INPROG -/
  inProg : Bool
  /-- ADC.PUB -/
  pub : Trio Word
  /-- ADC.PUBV -/
  pubv : Bool
deriving DecidableEq, Repr, Inhabited

/-- One capture record (R28 to R33). -/
structure CapRecord where
  /-- CAP.RISE -/
  rise : Word
  /-- CAP.FALL -/
  fall : Word
  /-- CAP.DUTY -/
  duty : Word
  /-- CAP.DONE -/
  done : Bool
  /-- CAP.ENR -/
  enr : Bool
  /-- CAP.ENF -/
  enf : Bool
  /-- CAP.SEENR -/
  seenR : Bool
deriving DecidableEq, Repr, Inhabited

/-- One EWMA filter (R35); `avg` and `len` are S16. -/
structure EwRecord where
  /-- EW.AVG -/
  avg : Word
  /-- EW.LEN -/
  len : Word
  /-- EW.FIRST -/
  first : Bool
deriving DecidableEq, Repr, Inhabited

/-- LK.ZONE; code 3 is never written, so the type has three values (R36; log 13). -/
inductive Zone where
  | normal
  | lowLock
  | highLock
deriving DecidableEq, Repr, Inhabited

/-- LK.DIR: the rail toward which the lock counts (R37). -/
inductive Rail where
  | low
  | high
deriving DecidableEq, Repr, Inhabited

/-- One endpoint lock (R36 to R38). -/
structure LockRecord where
  /-- LK.ZONE -/
  zone : Zone
  /-- LK.DIR -/
  dir : Rail
  /-- LK.CNT -/
  cnt : BitVec 8
deriving DecidableEq, Repr, Inhabited

/-- One DC-level debounce (R39). -/
structure DebounceRecord where
  /-- DC.CAND -/
  cand : Bool
  /-- DC.CNT -/
  cnt : BitVec 8
deriving DecidableEq, Repr, Inhabited

/-- What one debounce sample reports (R166). -/
inductive DcResult where
  | pending
  | low
  | high
deriving DecidableEq, Repr, Inhabited

/-- CC.MODE (R43). -/
inductive Mode where
  | localMode
  | externalMode
deriving DecidableEq, Repr, Inhabited

/-- One control-channel record (R40 to R44); `inval` and `outval` are S16. -/
structure ControlRecord where
  /-- CC.INVAL -/
  inval : Word
  /-- CC.OUTVAL -/
  outval : Word
  /-- CC.BAND -/
  band : BitVec 3
  /-- CC.MODE -/
  mode : Mode
  /-- CC.TMO -/
  tmo : BitVec 2
deriving DecidableEq, Repr, Inhabited

/-- One pulse on an output of the block. -/
inductive Pulse where
  /-- ADC_REQ with ADC_CHSEL = `c` (R45) -/
  | adcReq (c : BitVec 2)
  /-- DUTY_WR[k], with the value DUTY[k] then holds (R46) -/
  | dutyWr (k : Channel) (value : Word)
deriving DecidableEq, Repr, Inhabited

/-- The whole state of the block (R20), with two fields of the model's own: the trace still to be
presented and the pulses already emitted. -/
structure State where
  /-- unit ADC (R21 to R26) -/
  adc : AdcUnit
  /-- unit CAP, one record per capture channel (R28 to R33) -/
  cap : Pair CapRecord
  /-- unit EW, one filter per control channel (R35) -/
  ew : Pair EwRecord
  /-- unit LK, one endpoint lock per control channel (R36 to R38) -/
  lk : Pair LockRecord
  /-- unit DC, one debounce per control channel (R39) -/
  dc : Pair DebounceRecord
  /-- unit CC, one record per control channel (R40 to R44) -/
  cc : Pair ControlRecord
  /-- CND.TIER (R44) -/
  tier : BitVec 2
  /-- the output registers DUTY[k] (R46) -/
  duty : Pair Word
  /-- the inputs PINLVL[k], owned by the environment (R47) -/
  pinLvl : Pair Bool
  /-- SYS.CSEQ, the program counter (R48) -/
  cseq : BitVec 4
  /-- RES (R49, R94) -/
  res : ResultWord
  /-- the model's own: what host, sequencer and environment do next, in the order of effect (R90, R66;
  log 3) -/
  inputs : List Input
  /-- the model's own: the output pulses emitted so far, newest first (log 5) -/
  pulses : List Pulse
deriving DecidableEq, Repr, Inhabited

/-- Why the machine stops with a fault. There is NO constructor: "There are no fatal/unrecoverable
conditions in the core", every operation is total (R240). Nobody raises one. -/
inductive Fault where
deriving DecidableEq, Repr

/-- Why a step is refused. -/
inductive Refusal where
  /-- an instruction without a meaning; raised by `exec`'s refused arms only, of which there is none. Safe:
  the machine stops where the hardware goes on. -/
  | notModelled (mnemonic : String)
deriving DecidableEq, Repr

/-- The same value for both channels. -/
def Pair.both {α : Type} (a : α) : Pair α := ⟨a, a⟩

/-- The same value for the three logical ADC channels. -/
def Trio.all {α : Type} (a : α) : Trio α := ⟨a, a, a⟩

/-- The cleared grid (R54, R121). -/
def Grid.zero : Grid := ⟨Trio.all 0, Trio.all 0, Trio.all 0, Trio.all 0⟩

/-- The state right after reset: the table of R54. PINLVL has no reset value there; it is the free value of
log 2. Nothing is presented yet and no pulse has been emitted (log 3, log 5). -/
def State.reset : State where
  adc := { grid := Grid.zero, round := 0, chan := 0, inProg := false, pub := Trio.all 0, pubv := false }
  cap := Pair.both { rise := 0, fall := 0, duty := 0, done := false, enr := false, enf := false, seenR := false }
  ew := Pair.both { avg := 0, len := CFG.ewmaLen, first := true }
  lk := Pair.both { zone := .normal, dir := .low, cnt := 0 }
  dc := Pair.both { cand := false, cnt := 0 }
  cc := Pair.both { inval := 0, outval := 0, band := 7, mode := .localMode, tmo := 0 }
  tier := 3
  duty := Pair.both 0
  pinLvl := ⟨Config.pinAtPowerOn .ch0, Config.pinAtPowerOn .ch1⟩
  cseq := 0
  res := 0x1FFFF#17
  inputs := []
  pulses := []

end Sys2Proof.Machine
end

