-- ==== Sys2Proof/Machine/Operands.lean ====
section
/-! DEFINITION. The operand forms, the result word, the arithmetic primitives of R12 and R13, and the
codes of the enumerations. -/

namespace Sys2Proof.Machine

/-- `s16(w)`: a word read as two's complement (R12). -/
def s16 (w : Word) : Int := if w.toNat < 32768 then (w.toNat : Int) else (w.toNat : Int) - 65536

/-- `u16(v)`: `v mod 65536` as a word; also the narrowing of a value written to a 16-bit register (R12). -/
def u16 (v : Int) : Word := BitVec.ofInt 16 v

/-- `tdiv(a, b)`: division truncating toward zero, for `b > 0` (R13). -/
def tdiv (a b : Int) : Int := if 0 ≤ a then a / b else -(-a / b)

/-- `abs(a - b)` (R13). -/
def distance (a b : Int) : Nat := (a - b).natAbs

/-- `clamp(v, lo, hi)` (R13). -/
def clamp (v lo hi : Int) : Int := min (max v lo) hi

/-- `sat_inc(c, m)` (R13). -/
def satInc (c m : Nat) : Nat := min (c + 1) m

/-- NOT_READY, the result word 0x1FFFF (R94). -/
def notReady : ResultWord := 0x1FFFF#17

/-- The result word `{0, w}` of a command that returns the 16-bit word `w` (R94). -/
def readyWord (w : Word) : ResultWord := 0#1 ++ w

/-- The result word `{0, u16(v)}` of a command that returns `v` (R94). -/
def ready (v : Int) : ResultWord := readyWord (u16 v)

/-- `OPA[9:0]`, the raw conversion result masked to its valid range (R123). -/
def maskSample (raw : Word) : Word := raw &&& 0x3FF

/-- The logical ADC channel that supplies the band position of control channel `k` (R18, R161). -/
def bandSelectOf : Channel → AdcChannel
  | .ch0 => .bandSelect1
  | .ch1 => .bandSelect2

/-- Pending = 0, Low = 1, High = 2 (R166). -/
def dcCode : DcResult → Int
  | .pending => 0
  | .low => 1
  | .high => 2

/-- The local band positions 0..4 as fractions of full scale; every other code maps to 0 (R9, R171). -/
def localMap (band : BitVec 3) : Word :=
  match band.toNat with
  | 0 => 0
  | 1 => 250
  | 2 => 500
  | 3 => 750
  | 4 => 1000
  | _ => 0

/-- The band code of External (R42). -/
def bandExternal : BitVec 3 := 5

/-- The code of LK.ZONE (R36). -/
def zoneCode : Zone → BitVec 2
  | .normal => 0
  | .lowLock => 1
  | .highLock => 2

/-- The code of LK.DIR (R37). -/
def railCode : Rail → BitVec 1
  | .low => 0
  | .high => 1

/-- The code of CC.MODE (R43). -/
def modeCode : Mode → BitVec 1
  | .localMode => 0
  | .externalMode => 1

end Sys2Proof.Machine
end

