-- ==== Sys2Proof/Machine/Flags.lean ====
section
/-! DEFINITION. The status flags of R51 as conditions on the state, and the qualifying predicates of the
endpoint lock (R164). There are no arithmetic condition codes (R51). -/

namespace Sys2Proof.Machine

/-- BUSY: a control cycle is running (R48). -/
def busy (s : State) : Bool := s.cseq != 0

/-- `RES.NR` (R51, R94). -/
def resNotReady (r : ResultWord) : Bool := r.getLsbD 16

/-- `RES.VAL` (R94). -/
def resValue (r : ResultWord) : Word := r.setWidth 16

/-- The published averages may be read: no batch in progress and one published since reset (R122, R161). -/
def adcReadable (s : State) : Bool := !s.adc.inProg && s.adc.pubv

/-- The conversion request that is outstanding, as ADC.INPROG implies it (R27, R53). -/
def outstandingRequest (s : State) : Option (BitVec 2) := if s.adc.inProg then some s.adc.chan else none

/-- low-enter (R164) -/
def lowEnter (c : Config) (x : Int) : Bool := x ≤ (c.lockLowEnter : Int)

/-- high-enter (R164) -/
def highEnter (c : Config) (x : Int) : Bool := (c.lockHighEnter : Int) ≤ x

/-- low-exit: leaving LowLock (R164) -/
def lowExit (c : Config) (x : Int) : Bool := (c.lockLowExit : Int) < x

/-- high-exit: leaving HighLock (R164) -/
def highExit (c : Config) (x : Int) : Bool := x < (c.lockHighExit : Int)

/-- The filter neutralises a call that is disabled or misconfigured (R203). -/
def filterNeutral (enabled : Bool) (len : Word) (deadBand maxError : Int) : Bool :=
  !enabled || decide (s16 len ≤ 0) || decide (maxError < deadBand)

end Sys2Proof.Machine
end

