-- ==== Sys2Proof/Machine/Ops.lean ====
section
/-! DEFINITION. The named operations over the state: reads and writes of the per-channel records and of the
pending-sample grid, one write per field of State, the acceptance of a command (R218) and of an event
(R248), and reset (R270). The block has no byte-addressed memory (R15, R60); the grid is its only
memory-like array. -/

namespace Sys2Proof.Machine

/-- The record of a channel (R50). -/
def Pair.get {α : Type} (p : Pair α) : Channel → α
  | .ch0 => p.ch0
  | .ch1 => p.ch1

/-- Write the record of a channel; the other channel's is untouched. -/
def Pair.set {α : Type} (p : Pair α) (k : Channel) (a : α) : Pair α :=
  match k with
  | .ch0 => { p with ch0 := a }
  | .ch1 => { p with ch1 := a }

/-- The value of a logical ADC channel. -/
def Trio.get {α : Type} (t : Trio α) : AdcChannel → α
  | .bandSelect1 => t.c0
  | .bandSelect2 => t.c1
  | .powerLimit => t.c2

/-- The cell of one round at a channel index; an index past 2 names no cell and reads 0 (log 9). -/
def rowRead (t : Trio Word) (c : Nat) : Word :=
  match c with
  | 0 => t.c0
  | 1 => t.c1
  | 2 => t.c2
  | _ => 0

/-- Write a cell of one round; an index past 2 names no cell and nothing is written (log 9). -/
def rowWrite (t : Trio Word) (c : Nat) (v : Word) : Trio Word :=
  match c with
  | 0 => { t with c0 := v }
  | 1 => { t with c1 := v }
  | 2 => { t with c2 := v }
  | _ => t

/-- `MemRead(GRID, (r, c), 16)` (R15); outside 0..3 × 0..2 there is no cell and it reads 0 (log 9). -/
def Grid.read (g : Grid) (r c : Nat) : Word :=
  match r with
  | 0 => rowRead g.round0 c
  | 1 => rowRead g.round1 c
  | 2 => rowRead g.round2 c
  | 3 => rowRead g.round3 c
  | _ => 0

/-- `MemWrite(GRID, (r, c), 16, v)` (R15); outside 0..3 × 0..2 there is no cell and nothing is written
(log 9). -/
def Grid.write (g : Grid) (r c : Nat) (v : Word) : Grid :=
  match r with
  | 0 => { g with round0 := rowWrite g.round0 c v }
  | 1 => { g with round1 := rowWrite g.round1 c v }
  | 2 => { g with round2 := rowWrite g.round2 c v }
  | 3 => { g with round3 := rowWrite g.round3 c v }
  | _ => g

/-- The truncated mean of the four samples of a channel: their exact sum shifted right by 2 (R123, R124). -/
def Grid.mean (g : Grid) (c : Nat) : Word :=
  BitVec.ofNat 16
    (((g.read 0 c).toNat + (g.read 1 c).toNat + (g.read 2 c).toNat + (g.read 3 c).toNat) >>> 2)

/-- The three averages of a completed batch (R123). -/
def Grid.means (g : Grid) : Trio Word := ⟨g.mean 0, g.mean 1, g.mean 2⟩

/-- Write unit ADC. -/
def setAdc (s : State) (a : AdcUnit) : State := { s with adc := a }

/-- Write the capture record of channel `ch`. -/
def setCap (s : State) (ch : Channel) (r : CapRecord) : State := { s with cap := s.cap.set ch r }

/-- Write the filter of channel `k`. -/
def setEw (s : State) (k : Channel) (r : EwRecord) : State := { s with ew := s.ew.set k r }

/-- Write the endpoint lock of channel `k`. -/
def setLk (s : State) (k : Channel) (r : LockRecord) : State := { s with lk := s.lk.set k r }

/-- Write the debounce of channel `k`. -/
def setDc (s : State) (k : Channel) (r : DebounceRecord) : State := { s with dc := s.dc.set k r }

/-- Write the control record of channel `k`. -/
def setCc (s : State) (k : Channel) (r : ControlRecord) : State := { s with cc := s.cc.set k r }

/-- Write CND.TIER. -/
def setTier (s : State) (t : BitVec 2) : State := { s with tier := t }

/-- Write the output register DUTY[k]. -/
def setDuty (s : State) (k : Channel) (v : Word) : State := { s with duty := s.duty.set k v }

/-- Change the input PINLVL[k]. -/
def setPin (s : State) (k : Channel) (b : Bool) : State := { s with pinLvl := s.pinLvl.set k b }

/-- Write SYS.CSEQ. -/
def setCseq (s : State) (n : BitVec 4) : State := { s with cseq := n }

/-- Write RES. -/
def setRes (s : State) (r : ResultWord) : State := { s with res := r }

/-- Replace the trace still to be presented (log 3). -/
def setInputs (s : State) (l : List Input) : State := { s with inputs := l }

/-- `emit`: one pulse on an output (R16, R45, R46). -/
def emit (s : State) (p : Pulse) : State := { s with pulses := p :: s.pulses }

/-- The command port takes a command only while no control cycle runs; while BUSY it is dropped: no state
changes and RES keeps its value (R218). NOP alone does not pass through here. -/
def acceptCommand (s : State) (effect : State → State) : State := if busy s then s else effect s

/-- Taking an event: nothing is saved and nothing is switched, the handler is the event's own atomic
transition, accepted in every state (R248, R218, R251). This is the block's whole "exception entry"; there is
no return (R249). -/
def takeEvent (s : State) (handler : State → State) : State := handler s

/-- A reserved word, or an illegal selector on the port that accepts the word: on the command port no state changes and RES becomes NOT_READY,
unless the block is BUSY, when it is dropped; on the event port nothing happens (R98, R99). -/
def reservedWord (p : Port) (s : State) : State :=
  match p with
  | .command => acceptCommand s fun s => setRes s notReady
  | .event => s

/-- `RST` asserted: every element of state takes its reset value, any running cycle ends and the outstanding
request is dropped (R54, R270). The inputs PINLVL and the trace belong to the environment and the pulses
already emitted are past: they stay (log 6). -/
def applyReset (s : State) : State :=
  { State.reset with pinLvl := s.pinLvl, inputs := s.inputs, pulses := s.pulses }

end Sys2Proof.Machine
end

