-- ==== Sys2Proof/Machine/Adc.lean ====
section
/-! DEFINITION. The ADC averaging engine: ADC_START, ADC_READ, EV_ADC (R120 to R127). -/

namespace Sys2Proof.Machine

/-- The state changes of ADC_START, without RES (R121): a keep-alive while a batch is in progress and
`force` is 0, else a restart with a request for channel 0. -/
def adcStart (force : Bool) (s : State) : State :=
  if s.adc.inProg && !force then s
  else emit (setAdc s { s.adc with round := 0, chan := 0, grid := Grid.zero, inProg := true }) (.adcReq 0)

/-- What ADC_READ returns (R122). -/
def adcReadResult (c : AdcChannel) (s : State) : ResultWord :=
  if adcReadable s then readyWord (s.adc.pub.get c) else notReady

/-- ADC.CHAN after a stored sample: the next index, wrapping at the channel count (R123). -/
def nextChan (a : AdcUnit) : BitVec 2 := if a.chan + 1 = 3 then 0 else a.chan + 1

/-- ADC.ROUND after a stored sample: it advances when the channel index wraps (R123). -/
def nextRound (a : AdcUnit) : BitVec 3 := if a.chan + 1 = 3 then a.round + 1 else a.round

/-- The grid after a sample is stored at (ROUND, CHAN) (R123). -/
def storeSample (a : AdcUnit) (raw : Word) : Grid :=
  a.grid.write a.round.toNat a.chan.toNat (maskSample raw)

/-- The state changes of EV_ADC (R123): ignored with no batch in progress; else the sample is stored and
either the batch completes, publishing all three means at once, or the next conversion is requested. -/
def conversionComplete (raw : Word) (s : State) : State :=
  if s.adc.inProg then
    if nextRound s.adc = 4 then
      setAdc s { grid := storeSample s.adc raw, round := nextRound s.adc, chan := nextChan s.adc
                 inProg := false, pub := (storeSample s.adc raw).means, pubv := true }
    else
      emit (setAdc s { s.adc with grid := storeSample s.adc raw, round := nextRound s.adc, chan := nextChan s.adc })
        (.adcReq (nextChan s.adc))
  else s

/-- ADC_START (R121). -/
def execAdcStart (force : Bool) (s : State) : Host.Outcome State Fault Refusal :=
  .next (acceptCommand s fun s => setRes (adcStart force s) (ready 0))

/-- ADC_READ (R122). -/
def execAdcRead (c : AdcChannel) (s : State) : Host.Outcome State Fault Refusal :=
  .next (acceptCommand s fun s => setRes s (adcReadResult c s))

/-- EV_ADC (R123). -/
def execEvAdc (raw : Word) (s : State) : Host.Outcome State Fault Refusal :=
  .next (takeEvent s (conversionComplete raw))

end Sys2Proof.Machine
end

