-- ==== Sys2Proof/Machine/Cap.lean ====
section
/-! DEFINITION. The PWM capture engine: CAP_START, CAP_STOP, CAP_READ, EV_RISE, EV_FALL (R140 to R150). -/

namespace Sys2Proof.Machine

/-- The state changes of CAP_START, without RES (R141). -/
def capStart (ch : Channel) (s : State) : State :=
  setCap s ch { s.cap.get ch with done := false, seenR := false, enr := true, enf := true }

/-- The state changes of CAP_STOP, without RES (R142). -/
def capStop (ch : Channel) (s : State) : State :=
  setCap s ch { s.cap.get ch with enr := false, enf := false }

/-- What CAP_READ returns; reading does not clear the flag (R143). -/
def capReadResult (ch : Channel) (s : State) : ResultWord :=
  if (s.cap.get ch).done then readyWord (s.cap.get ch).duty else notReady

/-- The high time between two timestamps, tolerating one rollover of the counter of width `W` (R145, R147). -/
def edgeDuty (c : Config) (rise fall : Word) : Word :=
  if rise.toNat ≤ fall.toNat then u16 ((fall.toNat : Int) - rise.toNat)
  else u16 (((c.timerWrap : Int) - rise.toNat) + fall.toNat)

/-- The state changes of EV_RISE (R144): discarded while the source is disabled (R146). -/
def risingEdge (ch : Channel) (time : Word) (s : State) : State :=
  if (s.cap.get ch).enr then setCap s ch { s.cap.get ch with rise := time, seenR := true } else s

/-- The capture record after an enabled falling edge (R145): the timestamp is recorded, and the measurement
completes iff a rising edge was seen since the last CAP_START. -/
def fallRecord (c : Config) (r : CapRecord) (time : Word) : CapRecord :=
  if r.seenR then
    { r with fall := time, duty := edgeDuty c r.rise time, done := true, enr := false, enf := false }
  else { r with fall := time }

/-- The state changes of EV_FALL (R145): discarded while the source is disabled (R146). -/
def fallingEdge (c : Config) (ch : Channel) (time : Word) (s : State) : State :=
  if (s.cap.get ch).enf then setCap s ch (fallRecord c (s.cap.get ch) time) else s

/-- CAP_START (R141). -/
def execCapStart (ch : Channel) (s : State) : Host.Outcome State Fault Refusal :=
  .next (acceptCommand s fun s => setRes (capStart ch s) (ready 0))

/-- CAP_STOP (R142). -/
def execCapStop (ch : Channel) (s : State) : Host.Outcome State Fault Refusal :=
  .next (acceptCommand s fun s => setRes (capStop ch s) (ready 0))

/-- CAP_READ (R143). -/
def execCapRead (ch : Channel) (s : State) : Host.Outcome State Fault Refusal :=
  .next (acceptCommand s fun s => setRes s (capReadResult ch s))

/-- EV_RISE (R144). -/
def execEvRise (ch : Channel) (time : Word) (s : State) : Host.Outcome State Fault Refusal :=
  .next (takeEvent s (risingEdge ch time))

/-- EV_FALL (R145). -/
def execEvFall (ch : Channel) (time : Word) (s : State) : Host.Outcome State Fault Refusal :=
  .next (takeEvent s (fallingEdge CFG ch time))

end Sys2Proof.Machine
end

