-- ==== Sys2Proof/Machine/Ewma.lean ====
section
/-! DEFINITION. The EWMA filter: EW_INIT, EW_RESET, EW_UPDATE (R200 to R205). -/

namespace Sys2Proof.Machine

/-- The filter after `init(enabled, initial, length)`; `enabled` has no effect (R201). -/
def ewInit (initial length : Word) : EwRecord := { avg := initial, len := length, first := true }

/-- The filter after `reset(value)`: the length is untouched (R202). -/
def ewReset (e : EwRecord) (value : Int) : EwRecord := { e with avg := u16 value, first := false }

/-- The weighted update `tdiv(A * (L - 1) + s, L)` (R203). -/
def weightedAverage (avg len sample : Int) : Int := tdiv (avg * (len - 1) + sample) len

/-- The filter after `update(enabled, sample, dead_band, max_error)` (R203). The value the update returns is
the average it leaves: in each branch R203 returns the `A` it has just written or left. -/
def ewUpdate (e : EwRecord) (enabled : Bool) (sample deadBand maxError : Int) : EwRecord :=
  if filterNeutral enabled e.len deadBand maxError then e
  else if e.first then { e with avg := u16 sample, first := false }
  else if maxError < (distance sample (s16 e.avg) : Int) then e
  else if deadBand < (distance sample (s16 e.avg) : Int) then { e with avg := u16 sample }
  else { e with avg := u16 (weightedAverage (s16 e.avg) (s16 e.len) sample) }

/-- EW_INIT (R201). -/
def execEwInit (k : Channel) (_enabled : Bool) (initial length : Word) (s : State) :
    Host.Outcome State Fault Refusal :=
  .next (acceptCommand s fun s => setRes (setEw s k (ewInit initial length)) (readyWord initial))

/-- EW_RESET (R202). -/
def execEwReset (k : Channel) (value : Word) (s : State) : Host.Outcome State Fault Refusal :=
  .next (acceptCommand s fun s =>
    setRes (setEw s k (ewReset (s.ew.get k) (s16 value))) (readyWord (ewReset (s.ew.get k) (s16 value)).avg))

/-- EW_UPDATE (R203). -/
def execEwUpdate (k : Channel) (enabled : Bool) (sample deadBand maxError : Word) (s : State) :
    Host.Outcome State Fault Refusal :=
  .next (acceptCommand s fun s =>
    setRes (setEw s k (ewUpdate (s.ew.get k) enabled (s16 sample) (s16 deadBand) (s16 maxError)))
      (readyWord (ewUpdate (s.ew.get k) enabled (s16 sample) (s16 deadBand) (s16 maxError)).avg))

end Sys2Proof.Machine
end

