-- ==== Sys2Proof/Machine/Cond.lean ====
section
/-! DEFINITION. The conditioning pipeline: LDBAND, LOCK_STEP, DCD_STEP, COND, PLIM, OUTG, CHAN, EV_PIN
(R160 to R177). Each machine takes the configuration record as its argument `c` (R10). -/

namespace Sys2Proof.Machine

/-! ### Band positions and the tier (R161) -/

/-- The state changes of LDBAND, without RES: nothing when the ADC engine is not ready (R161). -/
def loadBand (c : Config) (ch : AdcChannel) (s : State) : State :=
  if adcReadable s then
    match ch with
    | .bandSelect1 => setCc s .ch0 { s.cc.get .ch0 with band := c.bandDecode (s.adc.pub.get ch) }
    | .bandSelect2 => setCc s .ch1 { s.cc.get .ch1 with band := c.bandDecode (s.adc.pub.get ch) }
    | .powerLimit => setTier s (c.tierDecode (s.adc.pub.get ch))
  else s

/-- What LDBAND returns: the code it wrote, or NOT_READY (R161). -/
def loadBandResult (c : Config) (ch : AdcChannel) (s : State) : ResultWord :=
  if adcReadable s then
    match ch with
    | .bandSelect1 => ready ((c.bandDecode (s.adc.pub.get ch)).toNat : Int)
    | .bandSelect2 => ready ((c.bandDecode (s.adc.pub.get ch)).toNat : Int)
    | .powerLimit => ready ((c.tierDecode (s.adc.pub.get ch)).toNat : Int)
  else notReady

/-! ### Endpoint lock (R163 to R165) -/

/-- LK.CNT after one more cycle qualifying for entry toward `rail`: a run toward the other rail starts again
(R165). -/
def entryCount (l : LockRecord) (rail : Rail) : BitVec 8 :=
  if 0 < l.cnt ∧ l.dir ≠ rail then 1 else l.cnt + 1

/-- Zone Normal: counting toward a rail, committing to it, or passing the input through (R165). -/
def lockNormal (c : Config) (l : LockRecord) (x : Int) : LockRecord × Int :=
  if lowEnter c x then
    if c.nEnter ≤ (entryCount l .low).toNat then ({ zone := .lowLock, dir := .low, cnt := 0 }, 0)
    else ({ l with dir := .low, cnt := entryCount l .low }, x)
  else if highEnter c x then
    if c.nEnter ≤ (entryCount l .high).toNat then ({ zone := .highLock, dir := .high, cnt := 0 }, (dutyMax : Int))
    else ({ l with dir := .high, cnt := entryCount l .high }, (c.lockHighEnter : Int))
  else ({ l with cnt := 0 }, x)

/-- A locked zone whose rail is `rail`: counting qualifying cycles toward the exit, which passes the input
through; any other cycle clears the count (R165). -/
def lockHeld (c : Config) (l : LockRecord) (qualifies : Bool) (rail x : Int) : LockRecord × Int :=
  if qualifies then
    if c.mExit ≤ (l.cnt + 1).toNat then ({ l with zone := .normal, cnt := 0 }, x)
    else ({ l with cnt := l.cnt + 1 }, rail)
  else ({ l with cnt := 0 }, rail)

/-- `LOCK(k, x)`: one cycle of the endpoint lock, with its output `y` (R165). -/
def lockNext (c : Config) (l : LockRecord) (x : Int) : LockRecord × Int :=
  match l.zone with
  | .normal => lockNormal c l x
  | .lowLock => lockHeld c l (lowExit c x) 0 x
  | .highLock => lockHeld c l (highExit c x) (dutyMax : Int) x

/-! ### DC-level debounce (R166, R167) -/

/-- `DCD(k, level)`: one sample of the debounce, with what it reports (R167). -/
def debounceNext (d : DebounceRecord) (level : Bool) : DebounceRecord × DcResult :=
  if level ≠ d.cand then ({ cand := level, cnt := 1 }, .pending)
  else
    ({ d with cnt := BitVec.ofNat 8 (satInc d.cnt.toNat dcConsist) },
      if dcConsist ≤ satInc d.cnt.toNat dcConsist then (if level then .high else .low) else .pending)

/-! ### The external branch (R170) -/

/-- CC.TMO after step 2.1: cleared by a ready capture, else incremented, saturating (R170). -/
def timeoutNext (r : CapRecord) (cc : ControlRecord) : BitVec 2 :=
  if r.done then 0 else BitVec.ofNat 2 (satInc cc.tmo.toNat tmoMax)

/-- Step 2.1 takes the DC path: no ready capture and the counter, already incremented, at its threshold
(R170). -/
def dcPath (r : CapRecord) (cc : ControlRecord) : Bool :=
  !r.done && decide (tmoMax ≤ (timeoutNext r cc).toNat)

/-- The debounce after step 2.1: it samples the pin on the DC path only (R170). -/
def debounceAfter (r : CapRecord) (cc : ControlRecord) (d : DebounceRecord) (pin : Bool) : DebounceRecord :=
  if dcPath r cc then (debounceNext d pin).1 else d

/-- The candidate target of step 2.1 (R170). -/
def candidate (c : Config) (r : CapRecord) (cc : ControlRecord) (d : DebounceRecord) (pin : Bool) : Int :=
  if r.done then (c.capScale r.duty : Int)
  else if dcPath r cc then
    match (debounceNext d pin).2 with
    | .pending => s16 cc.inval
    | .low => 0
    | .high => (dutyMax : Int)
  else s16 cc.inval

/-- Step 2.3: the filter, reset to the post-lock target when the previous cycle's mode was Local (R170). -/
def switchFilter (mode : Mode) (e : EwRecord) (t : Int) : EwRecord :=
  match mode with
  | .localMode => ewReset e t
  | .externalMode => e

/-- The change gate of step 2.4 passes (R170). -/
def gatePasses (c : Config) (t : Int) (inval : Word) : Bool :=
  decide (c.changeWindow ≤ distance t (s16 inval))

/-- The filter after step 2.4 (R170). -/
def gatedFilter (c : Config) (e : EwRecord) (t : Int) (inval : Word) : EwRecord :=
  if gatePasses c t inval then ewUpdate e c.ewmaEnable t (s16 c.ewmaDeadBand) (s16 c.ewmaMaxErr) else e

/-- CC.INVAL after step 2.4: what the update returned, or unchanged (R170). -/
def gatedInval (c : Config) (e : EwRecord) (t : Int) (inval : Word) : Word :=
  if gatePasses c t inval then (gatedFilter c e t inval).avg else inval

/-- Pipeline step 2 for control channel `k` (R170). -/
def externalBranch (c : Config) (k : Channel) (s : State) : State :=
  let r := s.cap.get k
  let cc := s.cc.get k
  let cand := candidate c r cc (s.dc.get k) (s.pinLvl.get k)
  let locked := lockNext c (s.lk.get k) cand
  let e := switchFilter cc.mode (s.ew.get k) locked.2
  { s with
    dc := s.dc.set k (debounceAfter r cc (s.dc.get k) (s.pinLvl.get k))
    lk := s.lk.set k locked.1
    ew := s.ew.set k (gatedFilter c e locked.2 cc.inval)
    cc := s.cc.set k { cc with
      tmo := timeoutNext r cc
      mode := .externalMode
      inval := gatedInval c e locked.2 cc.inval } }

/-- Pipeline step 3 for control channel `k`: nothing but the mode and the input value (R171). -/
def localBranch (k : Channel) (s : State) : State :=
  setCc s k { s.cc.get k with mode := .localMode, inval := localMap (s.cc.get k).band }

/-- The state changes of COND, without RES (R169). -/
def condition (c : Config) (k : Channel) (s : State) : State :=
  if (s.cc.get k).band = bandExternal then externalBranch c k s else localBranch k s

/-! ### Power limit, output gate, and the whole pipeline (R173 to R175) -/

/-- The input value scaled by the tier's fraction, truncating (R173). -/
def limited (c : Config) (tier : BitVec 2) (inval : Word) : Word :=
  u16 (tdiv (s16 inval * c.tierNum tier) (c.tierDen tier))

/-- The state changes of PLIM, without RES (R173). -/
def powerLimit (c : Config) (k : Channel) (s : State) : State :=
  setCc s k { s.cc.get k with outval := limited c s.tier (s.cc.get k).inval }

/-- DUTY[k] as the duty-output primitive takes it: clamped to 0..1000 (R174). -/
def clampedDuty (outval : Word) : Word := u16 (clamp (s16 outval) 0 dutyMax)

/-- The state changes of OUTG, without RES: the register is rewritten, with its strobe, only if the unclamped
output value differs from it by at least the threshold (R174). -/
def outputGate (c : Config) (k : Channel) (s : State) : State :=
  if c.outGate ≤ distance (s16 (s.cc.get k).outval) ((s.duty.get k).toNat : Int) then
    emit (setDuty s k (clampedDuty (s.cc.get k).outval)) (.dutyWr k (clampedDuty (s.cc.get k).outval))
  else s

/-- The state changes of CHAN, without RES: COND, then PLIM, then OUTG (R175). -/
def channelPipeline (c : Config) (k : Channel) (s : State) : State :=
  outputGate c k (powerLimit c k (condition c k s))

/-- LDBAND (R161). -/
def execLdband (ch : AdcChannel) (s : State) : Host.Outcome State Fault Refusal :=
  .next (acceptCommand s fun s => setRes (loadBand CFG ch s) (loadBandResult CFG ch s))

/-- LOCK_STEP (R165). -/
def execLockStep (k : Channel) (x : Word) (s : State) : Host.Outcome State Fault Refusal :=
  .next (acceptCommand s fun s =>
    setRes (setLk s k (lockNext CFG (s.lk.get k) (s16 x)).1) (ready (lockNext CFG (s.lk.get k) (s16 x)).2))

/-- DCD_STEP (R167). -/
def execDcdStep (k : Channel) (level : Bool) (s : State) : Host.Outcome State Fault Refusal :=
  .next (acceptCommand s fun s =>
    setRes (setDc s k (debounceNext (s.dc.get k) level).1) (ready (dcCode (debounceNext (s.dc.get k) level).2)))

/-- COND (R169). -/
def execCond (k : Channel) (s : State) : Host.Outcome State Fault Refusal :=
  .next (acceptCommand s fun s =>
    setRes (condition CFG k s) (readyWord ((condition CFG k s).cc.get k).inval))

/-- PLIM (R173). -/
def execPlim (k : Channel) (s : State) : Host.Outcome State Fault Refusal :=
  .next (acceptCommand s fun s =>
    setRes (powerLimit CFG k s) (readyWord ((powerLimit CFG k s).cc.get k).outval))

/-- OUTG (R174). -/
def execOutg (k : Channel) (s : State) : Host.Outcome State Fault Refusal :=
  .next (acceptCommand s fun s =>
    setRes (outputGate CFG k s) (readyWord ((outputGate CFG k s).duty.get k)))

/-- CHAN (R175). -/
def execChan (k : Channel) (s : State) : Host.Outcome State Fault Refusal :=
  .next (acceptCommand s fun s =>
    setRes (channelPipeline CFG k s) (readyWord ((channelPipeline CFG k s).duty.get k)))

/-- EV_PIN (R176). -/
def execEvPin (k : Channel) (level : Bool) (s : State) : Host.Outcome State Fault Refusal :=
  .next (takeEvent s fun s => setPin s k level)

end Sys2Proof.Machine
end

