-- ==== Sys2Proof/Machine/Sys.lean ====
section
/-! DEFINITION. The control orchestrator: NOP, CYCLE, USTEP and the control-cycle sequence (R215 to R224). -/

namespace Sys2Proof.Machine

/-- The state changes of micro-step `n` of the control-cycle sequence, a constant of the hardware; no
micro-step writes RES (R219). Indices 0 and above 8 name no micro-step (log 10). -/
def microStep (c : Config) (n : Nat) (s : State) : State :=
  match n with
  | 1 => loadBand c .bandSelect1 s
  | 2 => loadBand c .bandSelect2 s
  | 3 => loadBand c .powerLimit s
  | 4 => channelPipeline c .ch0 s
  | 5 => channelPipeline c .ch1 s
  | 6 => adcStart false s
  | 7 => capStart .ch0 s
  | 8 => capStart .ch1 s
  | _ => s

/-- SYS.CSEQ after a micro-step: after step 8 it returns to 0 (R220). -/
def nextCseq (n : BitVec 4) : BitVec 4 := if n = 8 then 0 else n + 1

/-- The state changes of USTEP: nothing while idle (R220). -/
def sequencerStep (c : Config) (s : State) : State :=
  if busy s then setCseq (microStep c s.cseq.toNat s) (nextCseq s.cseq) else s

/-- NOP: the one command accepted while BUSY; it returns the sequencer index (R216, R218). -/
def execNop (s : State) : Host.Outcome State Fault Refusal :=
  .next (setRes s (ready (s.cseq.toNat : Int)))

/-- CYCLE (R217). -/
def execCycle (s : State) : Host.Outcome State Fault Refusal :=
  .next (acceptCommand s fun s => setRes (setCseq s 1) (ready 0))

/-- USTEP, the sequencer's own transition; it is not a host command, so R218 does not drop it (R220; log 4). -/
def execUstep (s : State) : Host.Outcome State Fault Refusal :=
  .next (sequencerStep CFG s)

end Sys2Proof.Machine
end

