-- ==== Sys2Proof/Machine/Dispatch.lean ====
section
/-! DEFINITION. One arm per operation of the opcode table. -/

namespace Sys2Proof.Machine

-- The meaning of an operation, one arm per constructor of Instr.
def exec (i : Instr) (s : State) : Host.Outcome State Fault Refusal :=
  match i with
  | .nop => Sys2Proof.Machine.execNop s
  | .cycle => Sys2Proof.Machine.execCycle s
  | .ustep => Sys2Proof.Machine.execUstep s
  | .adcStart force => Sys2Proof.Machine.execAdcStart force s
  | .adcRead c => Sys2Proof.Machine.execAdcRead c s
  | .capStart ch => Sys2Proof.Machine.execCapStart ch s
  | .capStop ch => Sys2Proof.Machine.execCapStop ch s
  | .capRead ch => Sys2Proof.Machine.execCapRead ch s
  | .ldband c => Sys2Proof.Machine.execLdband c s
  | .lockStep k x => Sys2Proof.Machine.execLockStep k x s
  | .dcdStep k level => Sys2Proof.Machine.execDcdStep k level s
  | .cond k => Sys2Proof.Machine.execCond k s
  | .plim k => Sys2Proof.Machine.execPlim k s
  | .outg k => Sys2Proof.Machine.execOutg k s
  | .chan k => Sys2Proof.Machine.execChan k s
  | .ewInit k enabled initial length => Sys2Proof.Machine.execEwInit k enabled initial length s
  | .ewReset k value => Sys2Proof.Machine.execEwReset k value s
  | .ewUpdate k enabled sample deadBand maxError => Sys2Proof.Machine.execEwUpdate k enabled sample deadBand maxError s
  | .evAdc raw => Sys2Proof.Machine.execEvAdc raw s
  | .evRise ch time => Sys2Proof.Machine.execEvRise ch time s
  | .evFall ch time => Sys2Proof.Machine.execEvFall ch time s
  | .evPin k level => Sys2Proof.Machine.execEvPin k level s

end Sys2Proof.Machine
end

