-- ==== Sys2Proof/Machine/Ports.lean ====
section
/-! DEFINITION. What the block does next: the head of its trace, read on the port it is presented on (R90,
R97, R99), or the sequencer's own micro-step when nothing is presented (R220). -/

namespace Sys2Proof.Machine

/-- What a step finds to do. -/
inductive Activity where
  /-- an operation on the port that accepts it, or the sequencer's own micro-step -/
  | run (i : Instr)
  /-- a reserved word on a port (R99), or a selector that names no channel in a word the port accepts (R98) -/
  | reserved (p : Port)
  /-- a command word on the event port, or an event word on the command port (R99) -/
  | wrongPort
  /-- `RST` (R270) -/
  | reset
  /-- nothing presented and no control cycle running -/
  | idle
deriving DecidableEq, Repr

/-- What a word on a port is, in the order of R97: a word that matches no row is reserved (R99; for unit 0xE on the
command port, log 7); one that does is then held against the port, and only on the port that accepts its unit is
its selector checked (R98). -/
def classify (p : Port) (w : OpWord) : Activity :=
  match decode w with
  | .ok i => if i.port = p then .run i else .wrongPort
  | .error .illegalSelector => if portAcceptsUnit p w.cw then .reserved p else .wrongPort
  | .error .reservedZ1 | .error .reservedZ0 | .error .reservedUnit | .error .reservedFunc
  | .error .reservedSelector | .error .illegalFlag => .reserved p

/-- What the block does next. With nothing presented, a running control cycle goes on by itself (R220;
log 4). -/
def nextActivity (s : State) : Activity :=
  match s.inputs with
  | [] => if busy s then .run .ustep else .idle
  | .rst :: _ => .reset
  | .word p w :: _ => classify p w

/-- The state once the head of the trace has been taken. -/
def taken (s : State) : State := setInputs s s.inputs.tail

/-- The trace entry that presents the table word `w` on the port that accepts it (R90; log 24). -/
def tableInput (nbits w : Nat) : Input :=
  .word (portOfWord (tableOpWord nbits w).cw) (tableOpWord nbits w)

end Sys2Proof.Machine
end

