-- ==== Sys2Proof/Machine/Step.lean ====
section
/-! DEFINITION. One step of the block: one atomic operation (R66). -/

namespace Sys2Proof.Machine

/-- One step: take the head of the trace and perform it. A word that is reserved or on the wrong port has
the effect of R99, `RST` that of R270; with nothing to do the state stays. -/
def step (s : State) : Host.Outcome State Fault Refusal :=
  match nextActivity s with
  | .run i => exec i (taken s)
  | .reserved p => .next (reservedWord p (taken s))
  | .wrongPort => .next (taken s)
  | .reset => .next (applyReset (taken s))
  | .idle => .next s

/-- `s` with the table word `w` presented next, on the port that accepts it. -/
def State.withFetchWord (s : State) (nbits w : Nat) : State :=
  setInputs s (tableInput nbits w :: s.inputs)

end Sys2Proof.Machine
end

