-- ==== Sys2Proof/Safety.lean ====
section
/-! DEFINITION. What holds of every state a run reaches (R21 to R48, R27, R32, R38), what a state whose values
stay in the duty domain is (R177), and runs of operations and of steps in the terms claims use (R66, R224). -/

namespace Sys2Proof.Safety

open Sys2Proof.Machine

/-- Every cell of the grid holds a 10-bit sample (R21). -/
def GridWf (g : Grid) : Prop := ∀ r c : Nat, (g.read r c).toNat < 1024

/-- Every published average is in 0..1023 (R25). -/
def PubWf (p : Trio Word) : Prop := ∀ c : AdcChannel, (p.get c).toNat < 1024

/-- The ADC unit in the states of R27: the indices in range while a batch is in progress and where R22, R23
say between batches; the cells not yet sampled still 0; the published values the means of the last completed
batch while it is the one in the grid. -/
structure AdcInv (a : AdcUnit) : Prop where
  grid : GridWf a.grid
  pub : PubWf a.pub
  running : a.inProg = true → a.round.toNat < 4 ∧ a.chan.toNat < 3
  stopped : a.inProg = false → a.chan = 0 ∧ (a.round = 0 ∨ a.round = 4)
  pending : a.inProg = true → ∀ r c : Nat,
    a.round.toNat < r ∨ (r = a.round.toNat ∧ a.chan.toNat ≤ c) → a.grid.read r c = 0
  published : a.inProg = false → a.pubv = true → a.round = 4 ∧ a.pub = a.grid.means

/-- A capture record: both sources enabled or both disabled (R32); once complete, both disabled, a rising edge
seen, and the duty the wrapped difference of the recorded edges (R140, R145, R147). -/
structure CapInv (r : CapRecord) : Prop where
  enables : r.enr = r.enf
  disarmed : r.done = true → r.enf = false
  seen : r.done = true → r.seenR = true
  duty : r.done = true → r.duty = r.fall - r.rise

/-- The lock's counter is below the bound whose reaching changes the zone and clears it (R38). -/
def LockInv (l : LockRecord) : Prop :=
  match l.zone with
  | .normal => l.cnt.toNat < CFG.nEnter
  | .lowLock => l.cnt.toNat < CFG.mExit
  | .highLock => l.cnt.toNat < CFG.mExit

/-- What every step keeps. -/
structure Inv (s : State) : Prop where
  adc : AdcInv s.adc
  cap : ∀ ch, CapInv (s.cap.get ch)
  lock : ∀ k, LockInv (s.lk.get k)
  /-- DC.CNT saturates at DC_CONSIST (R39) -/
  debounce : ∀ k, (s.dc.get k).cnt.toNat ≤ dcConsist
  /-- CC.TMO is in 0..2 (R44) -/
  timeout : ∀ k, (s.cc.get k).tmo.toNat ≤ tmoMax
  /-- DUTY[k] holds 0..1000 (R46) -/
  duty : ∀ k, (s.duty.get k).toNat ≤ dutyMax
  /-- SYS.CSEQ never holds 9..15 (R48) -/
  cseq : s.cseq.toNat ≤ 8
  /-- RES is NOT_READY or a ready word (R94) -/
  res : s.res = notReady ∨ resNotReady s.res = false

/-- A signed word in the duty domain 0..1000. -/
def InDuty (w : Word) : Prop := 0 ≤ s16 w ∧ s16 w ≤ (dutyMax : Int)

/-- Filter average, input value and output value of both channels are in 0..1000 (R40, R41, R177). -/
structure ValuesInRange (s : State) : Prop where
  avg : ∀ k, InDuty (s.ew.get k).avg
  inval : ∀ k, InDuty (s.cc.get k).inval
  outval : ∀ k, InDuty (s.cc.get k).outval

/-- The filter commands whose value operand is in 0..1000, and every other operation. R40 and R177 name EW_INIT
and EW_RESET; EW_UPDATE adopts its sample too (log 17). -/
def FilterOperandInRange : Instr → Prop
  | .ewInit _ _ initial _ => InDuty initial
  | .ewReset _ value => InDuty value
  | .ewUpdate _ _ sample _ _ => InDuty sample
  | .nop | .cycle | .ustep | .adcStart _ | .adcRead _ | .capStart _ | .capStop _ | .capRead _
  | .ldband _ | .lockStep _ _ | .dcdStep _ _ | .cond _ | .plim _ | .outg _ | .chan _
  | .evAdc _ | .evRise _ _ | .evFall _ _ | .evPin _ _ => True

/-- The state a step or an operation answers, if it answers one. -/
def nextOf : Host.Outcome State Fault Refusal → Option State
  | .next s => some s
  | .fault _ => none
  | .refused _ => none

/-- A sequence of operations performed one after the other (R66). -/
def runOps : List Instr → State → Option State
  | [], s => some s
  | i :: is, s =>
    match nextOf (exec i s) with
    | some t => runOps is t
    | none => none

/-- A run is complete only if no control cycle is half run at its end (R224). -/
def RunComplete (s : State) : Prop := s.cseq = 0

end Sys2Proof.Safety
end

