-- ==== Sys2Proof/Certificates/Slice0/Obligations.lean ====
section
/-! DEFINITION. The statements for the provers. `x.toInt` is a word read as two's complement, `x.toNat` the same
word unsigned, `0#1 ++ v` the result word of a command that returns `v` (R94), `0x1FFFF#17` NOT_READY.

Every statement about an operation gives the whole next state, so what it does not write is unchanged. A command
is accepted only while `SYS.CSEQ = 0` (R218), so the command statements say `if s.cseq ≠ 0 then s else …`. -/

open Sys2Proof Sys2Proof.Machine Sys2Proof.Safety

/-! ### Terms of the statements -/

/-- How many of OPA, OPB, OPC an operation reads (column "operands" of R96). -/
def Sys2Proof.Statements.operandCount : Instr → Nat
  | .ewUpdate _ _ _ _ _ => 3
  | .ewInit _ _ _ _ => 2
  | .lockStep _ _ | .ewReset _ _ | .evAdc _ | .evRise _ _ | .evFall _ _ => 1
  | .nop | .cycle | .ustep | .adcStart _ | .adcRead _ | .capStart _ | .capStop _ | .capRead _
  | .ldband _ | .dcdStep _ _ | .cond _ | .plim _ | .outg _ | .chan _ | .evPin _ _ => 0

/-- The control-cycle sequence of R219: the operation micro-step `n` performs. -/
def Sys2Proof.Statements.controlCycle : Nat → Option Instr
  | 1 => some (.ldband .bandSelect1)
  | 2 => some (.ldband .bandSelect2)
  | 3 => some (.ldband .powerLimit)
  | 4 => some (.chan .ch0)
  | 5 => some (.chan .ch1)
  | 6 => some (.adcStart false)
  | 7 => some (.capStart .ch0)
  | 8 => some (.capStart .ch1)
  | _ => none

/-- A restart followed by `n` conversion-complete events with the raw results `raw 0`, `raw 1`, … -/
def Sys2Proof.Statements.batch (force : Bool) (raw : Nat → Word) (n : Nat) : List Instr :=
  .adcStart force :: (List.range n).map fun j => .evAdc (raw j)

/-- The event groups of R69: EV_ADC, the edges of channel 0, the edges of channel 1, EV_PIN. -/
def Sys2Proof.Statements.eventGroup : Instr → Option Nat
  | .evAdc _ => some 0
  | .evRise .ch0 _ | .evFall .ch0 _ => some 1
  | .evRise .ch1 _ | .evFall .ch1 _ => some 2
  | .evPin _ _ => some 3
  | _ => none

/-- The sum of the four cells of a column of the grid. -/
def Sys2Proof.Statements.columnSum (g : Grid) (c : Nat) : Nat :=
  (g.read 0 c).toNat + (g.read 1 c).toNat + (g.read 2 c).toNat + (g.read 3 c).toNat

/-! ### Encoding -/

/-- R96, R97, R101: the encoding of every operation, every operand at every value, decodes to it. -/
def Obligations.DecodeEncodeRoundTrip : Prop :=
  ∀ i : Instr, decode (encode i) = .ok i

/-- R91, R92, R96: a word that decodes is the word of the operation it decodes to, the operands the operation reads
are the ones presented, and the others are encoded 0. -/
def Obligations.DecodedWordIsTheEncodedWord : Prop :=
  ∀ (w : OpWord) (i : Instr), decode w = .ok i →
    encodeCw i = w.cw ∧
    encodeOpa i = (if 1 ≤ Statements.operandCount i then w.opa else 0) ∧
    encodeOpb i = (if 2 ≤ Statements.operandCount i then w.opb else 0) ∧
    encodeOpc i = (if 3 ≤ Statements.operandCount i then w.opc else 0)

/-- R97, R98, R99: the decoder accepts exactly the words that select a row of R96 with a selector legal there, and
rejects for their selector exactly the words that select a row with a selector not legal there; all others match no
row and are rejected for another reason. -/
def Obligations.DecodeAcceptsExactlyTheLegalWords : Prop :=
  ∀ w : OpWord,
    ((∃ i, decode w = .ok i) ↔
      ∃ r ∈ opcodeTable, w.cw &&& r.mask = r.pattern ∧ (w.cw.toNat / 4) % 4 ∈ r.sels) ∧
    (decode w = .error .illegalSelector ↔
      ∃ r ∈ opcodeTable, w.cw &&& r.mask = r.pattern ∧ (w.cw.toNat / 4) % 4 ∉ r.sels)

/-- R97: the rows of R96 are pairwise disjoint, so at most one matches a word. -/
def Obligations.OpcodeRowsAreDisjoint : Prop :=
  opcodeTable.Pairwise fun r r' => ∀ w : Word, ¬ (w &&& r.mask = r.pattern ∧ w &&& r'.mask = r'.pattern)

/-- R90, R96: every operation's word selects the row of its mnemonic, with a legal selector, and belongs to the
port that accepts the operation. -/
def Obligations.EveryOperationHasItsRowAndPort : Prop :=
  ∀ i : Instr, (∃ r ∈ opcodeTable, r.mnemonic = i.mnemonic ∧ encodeCw i &&& r.mask = r.pattern ∧
      (encodeCw i).toNat / 4 % 4 ∈ r.sels) ∧
    portAcceptsUnit i.port (encodeCw i) = true

/-- R96: words written out from the table decode to the operations they stand for. -/
def Obligations.SampleWordsDecode : Prop :=
  decode ⟨0x0100, 0, 0, 0⟩ = .ok .cycle ∧
  decode ⟨0x1001, 0, 0, 0⟩ = .ok (.adcStart true) ∧
  decode ⟨0x1108, 0, 0, 0⟩ = .ok (.adcRead .powerLimit) ∧
  decode ⟨0x2204, 0, 0, 0⟩ = .ok (.capRead .ch1) ∧
  decode ⟨0x3205, 0, 0, 0⟩ = .ok (.dcdStep .ch1 true) ∧
  decode ⟨0x4205, 500, 10, 100⟩ = .ok (.ewUpdate .ch1 true 500 10 100) ∧
  decode ⟨0xE104, 65000, 0, 0⟩ = .ok (.evRise .ch1 65000) ∧
  decode ⟨0x110C, 0, 0, 0⟩ = .error .illegalSelector ∧
  decode ⟨0x4101, 0, 0, 0⟩ = .error .illegalFlag ∧
  decode ⟨0x1002, 0, 0, 0⟩ = .error .reservedZ0

/-- R94: a ready word has NR = 0 and gives its value back; NOT_READY has NR = 1. -/
def Obligations.ResultWordSeparatesReadyFromNotReady : Prop :=
  (∀ v : Word, resNotReady (readyWord v) = false ∧ resValue (readyWord v) = v ∧ readyWord v ≠ 0x1FFFF#17) ∧
  resNotReady 0x1FFFF#17 = true

/-! ### Steps, ports, reset -/

/-- R66, R90, R97: the operation presented next, on the port that accepts it, is what the step performs. For the word
of USTEP while a control cycle runs this is the model's reading: the word is the sequencer's label (R220), performed
and not dropped with the host's words of R218 (log 4). -/
def Obligations.StepRunsTheDecodedOperation : Prop :=
  ∀ (s : State) (p : Port) (w : OpWord) (rest : List Input) (i : Instr),
    s.inputs = .word p w :: rest → decode w = .ok i → i.port = p →
    step s = exec i { s with inputs := rest }

/-- R97, R98, R99: a reserved word, and a word whose selector is not legal on the port that accepts its unit, return
NOT_READY on the idle command port and do nothing on the event port or while BUSY; a word that selects a row, with a
legal selector or not, does nothing on the port that does not accept its unit. For a word of unit 0xE that selects no
row, on the command port, this is the model's reading (log 7). -/
def Obligations.ReservedAndMisplacedWordsDoNothing : Prop :=
  (∀ (s : State) (p : Port) (w : OpWord) (rest : List Input) (e : DecodeError),
    s.inputs = .word p w :: rest → decode w = .error e → (e = .illegalSelector → portAcceptsUnit p w.cw = true) →
    step s = .next (match p with
      | .command => if s.cseq = 0 then { s with inputs := rest, res := 0x1FFFF#17 } else { s with inputs := rest }
      | .event => { s with inputs := rest })) ∧
  (∀ (s : State) (p : Port) (w : OpWord) (rest : List Input),
    s.inputs = .word p w :: rest → decode w = .error .illegalSelector → portAcceptsUnit p w.cw = false →
    step s = .next { s with inputs := rest }) ∧
  (∀ (s : State) (p : Port) (w : OpWord) (rest : List Input) (i : Instr),
    s.inputs = .word p w :: rest → decode w = .ok i → i.port ≠ p →
    step s = .next { s with inputs := rest })

/-- With nothing presented a running control cycle goes on by itself and an idle block stays as it is: the model's
choice of what an empty trace means (log 3, log 4), after R220 and R224. -/
def Obligations.NothingPresentedRunsTheSequencer : Prop :=
  ∀ s : State, s.inputs = [] → step s = if s.cseq ≠ 0 then exec .ustep s else .next s

/-- R54: the state after reset is the table of R54 (PINLVL, which R54 leaves unspecified, apart), and asserting RST
puts every element at it. The trace and the record of pulses are the model's own. -/
def Obligations.ResetStateIsTheTable : Prop :=
  (∀ r c : Nat, State.reset.adc.grid.read r c = 0) ∧
  State.reset.adc.round = 0 ∧ State.reset.adc.chan = 0 ∧ State.reset.adc.inProg = false ∧
  (∀ c, State.reset.adc.pub.get c = 0) ∧ State.reset.adc.pubv = false ∧
  (∀ ch, State.reset.cap.get ch = ⟨0, 0, 0, false, false, false, false⟩) ∧
  (∀ k, State.reset.ew.get k = ⟨0, CFG.ewmaLen, true⟩) ∧
  (∀ k, State.reset.lk.get k = ⟨.normal, .low, 0⟩) ∧
  (∀ k, State.reset.dc.get k = ⟨false, 0⟩) ∧
  (∀ k, State.reset.cc.get k = ⟨0, 0, 7, .localMode, 0⟩) ∧
  State.reset.tier = 3 ∧ (∀ k, State.reset.duty.get k = 0) ∧
  State.reset.cseq = 0 ∧ State.reset.res = 0x1FFFF#17 ∧
  ∀ (s : State) (rest : List Input), s.inputs = .rst :: rest →
    ∃ t, step s = .next t ∧ t = { State.reset with inputs := rest, pinLvl := t.pinLvl, pulses := t.pulses }

/-- R270: asserting RST gives every element its reset value from any state. That the inputs of the environment and
the pulses already emitted stay is the model's choice (log 6). -/
def Obligations.ResetInputRestoresTheTable : Prop :=
  ∀ (s : State) (rest : List Input), s.inputs = .rst :: rest →
    step s = .next { State.reset with inputs := rest, pinLvl := s.pinLvl, pulses := s.pulses }

/-- R271: the block right after reset reports not ready to every read, ignores conversions and edges, accepts pin
levels, returns 0 to NOP, and has its outputs off without having emitted anything. -/
def Obligations.ColdBlockReportsNotReady : Prop :=
  (∀ c, exec (.adcRead c) State.reset = .next State.reset) ∧
  (∀ ch, exec (.capRead ch) State.reset = .next State.reset) ∧
  (∀ c, exec (.ldband c) State.reset = .next State.reset) ∧
  State.reset.res = 0x1FFFF#17 ∧
  (∀ raw, exec (.evAdc raw) State.reset = .next State.reset) ∧
  (∀ ch time, exec (.evRise ch time) State.reset = .next State.reset) ∧
  (∀ ch time, exec (.evFall ch time) State.reset = .next State.reset) ∧
  (∀ k level, exec (.evPin k level) State.reset =
    .next { State.reset with pinLvl := State.reset.pinLvl.set k level }) ∧
  exec .nop State.reset = .next { State.reset with res := 0 } ∧
  (∀ k, State.reset.duty.get k = 0) ∧ State.reset.pulses = []

/-! ### Orchestrator -/

/-- R216: NOP returns the sequencer index in every state and changes nothing else. -/
def Obligations.NopReturnsTheSequencerIndex : Prop :=
  encodeCw .nop = 0x0000 ∧
  ∀ s : State, exec .nop s = .next { s with res := 0#1 ++ s.cseq.setWidth 16 }

/-- R217: CYCLE sets the sequencer index from 0 to 1 and returns 0; while a cycle runs it is dropped. -/
def Obligations.CycleStartsAControlCycle : Prop :=
  encodeCw .cycle = 0x0100 ∧
  ∀ s : State, exec .cycle s = .next (if s.cseq ≠ 0 then s else { s with cseq := 1, res := 0 })

/-- R219, R220: USTEP does nothing while idle; while SYS.CSEQ names a micro-step it performs exactly the state
changes of the operation R219 lists there, without RES, and advances the index, returning to 0 after step 8. -/
def Obligations.UstepPerformsTheMicroStep : Prop :=
  encodeCw .ustep = 0x0200 ∧
  (∀ s : State, s.cseq = 0 → exec .ustep s = .next s) ∧
  (∀ (s : State) (i : Instr), Statements.controlCycle s.cseq.toNat = some i →
    ∃ t, exec i { s with cseq := 0 } = .next t ∧
      exec .ustep s = .next { t with res := s.res, cseq := if s.cseq = 8 then 0 else s.cseq + 1 })

/-- R218: while a control cycle runs every word on the command port but NOP is dropped, legal or reserved, and
events are accepted as in any other state. The label of USTEP is the sequencer's, not a host's word (R220;
log 4). -/
def Obligations.CommandsWhileBusyAreDropped : Prop :=
  (∀ (s : State) (w : OpWord) (rest : List Input), s.cseq ≠ 0 → s.inputs = .word .command w :: rest →
    decode w ≠ .ok .nop → decode w ≠ .ok .ustep → step s = .next { s with inputs := rest }) ∧
  (∀ (s : State) (i : Instr) (n : BitVec 4), i.port = .event →
    ∃ t, exec i s = .next t ∧ exec i { s with cseq := n } = .next { t with cseq := n })

/-- R121, R141, R221: BOOT from reset leaves a batch in progress with a request for channel 0, both capture channels
armed and every other element but RES at its reset value. R221's own sentence says "every other element"; RES is 0, the
result of the last of its commands (R121, R141), and not the reset value. -/
def Obligations.BootStartsTheEngines : Prop :=
  runOps [.adcStart true, .capStart .ch0, .capStart .ch1] State.reset =
    some { State.reset with
      adc := { State.reset.adc with inProg := true }
      cap := ⟨⟨0, 0, 0, false, true, true, false⟩, ⟨0, 0, 0, false, true, true, false⟩⟩
      res := 0
      pulses := [.adcReq 0] }

/-- R273: a control cycle on a block that was not booted holds bands and tier, keeps both outputs at 0, starts a
batch and arms both capture channels; it rewrites the outputs, with the value 0 they hold, only if OUT_GATE is 0. -/
def Obligations.UnbootedCycleStartsTheEngines : Prop :=
  ∃ t, runOps (.cycle :: List.replicate 8 .ustep) State.reset = some t ∧
    t.adc = { State.reset.adc with inProg := true } ∧
    (∀ ch, t.cap.get ch = ⟨0, 0, 0, false, true, true, false⟩) ∧
    t.cc = State.reset.cc ∧ t.tier = 3 ∧ t.ew = State.reset.ew ∧ t.lk = State.reset.lk ∧ t.dc = State.reset.dc ∧
    (∀ k, t.duty.get k = 0) ∧ t.cseq = 0 ∧
    t.pulses = (if 1 ≤ CFG.outGate then [.adcReq 0] else [.adcReq 0, .dutyWr .ch1 0, .dutyWr .ch0 0])

/-! ### ADC averaging engine -/

/-- R121: ADC_START is a keep-alive while a batch is in progress and force is 0; else it clears the grid and the
indices, marks in-progress and requests channel 0, leaving the published values; RES becomes 0. -/
def Obligations.AdcStartRestartsOrKeepsAlive : Prop :=
  encodeCw (.adcStart false) = 0x1000 ∧ encodeCw (.adcStart true) = 0x1001 ∧
  (∀ r c : Nat, Grid.zero.read r c = 0) ∧
  ∀ (force : Bool) (s : State), exec (.adcStart force) s = .next (
    if s.cseq ≠ 0 then s
    else if s.adc.inProg = true ∧ force = false then { s with res := 0 }
    else { s with
      adc := { s.adc with round := 0, chan := 0, grid := Grid.zero, inProg := true }
      pulses := .adcReq 0 :: s.pulses
      res := 0 })

/-- R122: ADC_READ returns the published average of its channel, or NOT_READY while a batch is in progress or none
was published since reset; it changes no state but RES. Its words with a selector that does not exist are reserved. -/
def Obligations.AdcReadReturnsTheMeanOrNotReady : Prop :=
  encodeCw (.adcRead .bandSelect1) = 0x1100 ∧ encodeCw (.adcRead .bandSelect2) = 0x1104 ∧
  encodeCw (.adcRead .powerLimit) = 0x1108 ∧
  (∀ a b c, decode ⟨0x110C, a, b, c⟩ = .error .illegalSelector) ∧
  ∀ (c : AdcChannel) (s : State), exec (.adcRead c) s = .next (
    if s.cseq ≠ 0 then s
    else { s with res :=
      if s.adc.inProg = true ∨ s.adc.pubv = false then 0x1FFFF#17 else 0#1 ++ s.adc.pub.get c })

/-- R123: EV_ADC is ignored with no batch in progress; else it stores the low 10 bits at (ROUND, CHAN), and either
publishes all three truncated means at once and ends the batch, at (3, 2), or advances the indices and requests
the next channel. -/
def Obligations.ConversionStoresOrPublishes : Prop :=
  encodeCw (.evAdc 0) = 0xE000 ∧
  (∀ (raw : Word) (s : State), s.adc.inProg = false → exec (.evAdc raw) s = .next s) ∧
  (∀ (raw : Word) (s : State), s.adc.inProg = true → s.adc.round.toNat < 4 → s.adc.chan.toNat < 3 →
    ∃ t, exec (.evAdc raw) s = .next t ∧
      (∀ r c : Nat, t.adc.grid.read r c =
        if r = s.adc.round.toNat ∧ c = s.adc.chan.toNat then BitVec.ofNat 16 (raw.toNat % 1024)
        else s.adc.grid.read r c) ∧
      (if s.adc.round = 3 ∧ s.adc.chan = 2 then
        t = { s with adc := t.adc } ∧ t.adc.round = 4 ∧ t.adc.chan = 0 ∧ t.adc.inProg = false ∧
          t.adc.pubv = true ∧
          ∀ c : AdcChannel, (t.adc.pub.get c).toNat = Statements.columnSum t.adc.grid c.sel / 4
      else
        t = { s with adc := t.adc, pulses := .adcReq t.adc.chan :: s.pulses } ∧
          t.adc.inProg = true ∧ t.adc.pub = s.adc.pub ∧ t.adc.pubv = s.adc.pubv ∧ t.adc.chan.toNat < 3 ∧
          3 * t.adc.round.toNat + t.adc.chan.toNat = 3 * s.adc.round.toNat + s.adc.chan.toNat + 1))

/-- R124: over 10-bit samples the published value is floor(sum / 4), in 0..1023, the sum fitting 12 bits. -/
def Obligations.MeanIsTheTruncatedQuarterOfTheSum : Prop :=
  ∀ (g : Grid) (c : AdcChannel), GridWf g →
    Statements.columnSum g c.sel ≤ 4092 ∧
    (g.means.get c).toNat = Statements.columnSum g c.sel / 4 ∧ (g.means.get c).toNat ≤ 1023

/-- R125, R127: from a restart, the k-th event stores into (k div 3, k mod 3); every ADC_READ returns NOT_READY until
the twelfth, which completes the batch; then every ADC_READ returns the truncated mean of its channel's four masked
samples; each event emits one request but the twelfth. -/
def Obligations.TwelveConversionsPublishTheMeans : Prop :=
  ∀ (s : State) (force : Bool) (raw : Nat → Word) (n : Nat),
    s.cseq = 0 → (force = true ∨ s.adc.inProg = false) → n ≤ 12 →
    ∃ t, runOps (Statements.batch force raw n) s = some t ∧
      t.pulses.length = s.pulses.length + (if n < 12 then n + 1 else 12) ∧
      (∀ k < n, t.adc.grid.read (k / 3) (k % 3) = BitVec.ofNat 16 ((raw k).toNat % 1024)) ∧
      if n < 12 then
        t.adc.inProg = true ∧ t.adc.round.toNat = n / 3 ∧ t.adc.chan.toNat = n % 3 ∧
          ∀ c, exec (.adcRead c) t = .next { t with res := 0x1FFFF#17 }
      else
        t.adc.inProg = false ∧
          ∀ c : AdcChannel, ∃ v : Word, exec (.adcRead c) t = .next { t with res := 0#1 ++ v } ∧
            v.toNat = ((raw c.sel).toNat % 1024 + (raw (c.sel + 3)).toNat % 1024
              + (raw (c.sel + 6)).toNat % 1024 + (raw (c.sel + 9)).toNat % 1024) / 4

/-- R70 (a): in every state of the invariant ADC_READ answers NOT_READY or the truncated mean of the completed batch
that is in the grid, never a value from a batch still being acquired. -/
def Obligations.AdcReadNeverShowsAnUnfinishedBatch : Prop :=
  ∀ (s : State) (c : AdcChannel), Inv s → s.cseq = 0 →
    ∃ t, exec (.adcRead c) s = .next t ∧
      if s.adc.inProg = true then t.res = 0x1FFFF#17
      else t.res = 0x1FFFF#17 ∨ ∃ v : Word, t.res = 0#1 ++ v ∧ v.toNat ≤ 1023 ∧
        v.toNat = Statements.columnSum s.adc.grid c.sel / 4

/-! ### Capture engine -/

/-- R141: CAP_START clears the completion flag and the seen flag of its channel and enables both its sources; the
timestamps, the duty and the other channel are unchanged; RES becomes 0.
Its words with a selector that does not exist are reserved. -/
def Obligations.CapStartArmsItsChannel : Prop :=
  encodeCw (.capStart .ch0) = 0x2000 ∧ encodeCw (.capStart .ch1) = 0x2004 ∧
  (∀ a b c, decode ⟨0x2008, a, b, c⟩ = .error .illegalSelector) ∧
  (∀ a b c, decode ⟨0x200C, a, b, c⟩ = .error .illegalSelector) ∧
  ∀ (ch : Channel) (s : State), exec (.capStart ch) s = .next (
    if s.cseq ≠ 0 then s
    else { s with
      cap := s.cap.set ch { s.cap.get ch with done := false, seenR := false, enr := true, enf := true }
      res := 0 })

/-- R142: CAP_STOP disables both sources of its channel and changes nothing else but RES. -/
def Obligations.CapStopDisarmsItsChannel : Prop :=
  encodeCw (.capStop .ch0) = 0x2100 ∧ encodeCw (.capStop .ch1) = 0x2104 ∧
  ∀ (ch : Channel) (s : State), exec (.capStop ch) s = .next (
    if s.cseq ≠ 0 then s
    else { s with cap := s.cap.set ch { s.cap.get ch with enr := false, enf := false }, res := 0 })

/-- R143: CAP_READ returns the completed tick count of its channel or NOT_READY, and does not clear the flag.
Its words with a selector that does not exist are reserved. -/
def Obligations.CapReadReturnsTheDutyOrNotReady : Prop :=
  encodeCw (.capRead .ch0) = 0x2200 ∧ encodeCw (.capRead .ch1) = 0x2204 ∧
  (∀ a b c, decode ⟨0x2208, a, b, c⟩ = .error .illegalSelector) ∧
  (∀ a b c, decode ⟨0x220C, a, b, c⟩ = .error .illegalSelector) ∧
  ∀ (ch : Channel) (s : State), exec (.capRead ch) s = .next (
    if s.cseq ≠ 0 then s
    else { s with res := if (s.cap.get ch).done = true then 0#1 ++ (s.cap.get ch).duty else 0x1FFFF#17 })

/-- R144: an enabled rising edge records its timestamp and that it was seen; a disabled one changes nothing (R146).
Its words with a selector that does not exist are reserved. -/
def Obligations.RisingEdgeRecordsItsTimestamp : Prop :=
  encodeCw (.evRise .ch0 0) = 0xE100 ∧ encodeCw (.evRise .ch1 0) = 0xE104 ∧
  (∀ a b c, decode ⟨0xE108, a, b, c⟩ = .error .illegalSelector) ∧
  (∀ a b c, decode ⟨0xE10C, a, b, c⟩ = .error .illegalSelector) ∧
  ∀ (ch : Channel) (time : Word) (s : State), exec (.evRise ch time) s = .next (
    if (s.cap.get ch).enr = false then s
    else { s with cap := s.cap.set ch { s.cap.get ch with rise := time, seenR := true } })

/-- R145, R147: an enabled falling edge records its timestamp; if a rising edge was seen since the last CAP_START it
completes the measurement with duty (OPA - RISE) mod 65536, across a rollover too, and disables both sources; a
disabled one changes nothing (R146). Its words with a selector that does not exist are reserved. -/
def Obligations.FallingEdgeCompletesTheMeasurement : Prop :=
  encodeCw (.evFall .ch0 0) = 0xE200 ∧ encodeCw (.evFall .ch1 0) = 0xE204 ∧
  (∀ a b c, decode ⟨0xE208, a, b, c⟩ = .error .illegalSelector) ∧
  (∀ a b c, decode ⟨0xE20C, a, b, c⟩ = .error .illegalSelector) ∧
  ∀ (ch : Channel) (time : Word) (s : State), ∃ duty : Word,
    duty.toNat = (if (s.cap.get ch).rise.toNat ≤ time.toNat then time.toNat - (s.cap.get ch).rise.toNat
      else (65536 - (s.cap.get ch).rise.toNat) + time.toNat) ∧
    duty.toNat = (time.toNat + (65536 - (s.cap.get ch).rise.toNat)) % 65536 ∧
    exec (.evFall ch time) s = .next (
      if (s.cap.get ch).enf = false then s
      else if (s.cap.get ch).seenR = true then
        { s with
          cap := s.cap.set ch { s.cap.get ch with fall := time, duty := duty, done := true, enr := false, enf := false } }
      else { s with cap := s.cap.set ch { s.cap.get ch with fall := time } })

/-- R149: the six edge sequences after a CAP_START. -/
def Obligations.EdgeOrderAfterOneStart : Prop :=
  ∀ (s : State) (ch : Channel) (r r1 r2 f f1 f2 : Word), s.cseq = 0 →
    (∃ t, runOps [.capStart ch, .evRise ch r, .evFall ch f] s = some t ∧
      (t.cap.get ch).done = true ∧ (t.cap.get ch).duty = f - r) ∧
    (∃ t, runOps [.capStart ch, .evRise ch r1, .evRise ch r2, .evFall ch f] s = some t ∧
      (t.cap.get ch).done = true ∧ (t.cap.get ch).duty = f - r2) ∧
    (∃ t, runOps [.capStart ch, .evFall ch f1] s = some t ∧
      (t.cap.get ch).done = false ∧ (t.cap.get ch).fall = f1 ∧ (t.cap.get ch).enr = true ∧
      (t.cap.get ch).enf = true) ∧
    (∃ t, runOps [.capStart ch, .evFall ch f1, .evRise ch r, .evFall ch f2] s = some t ∧
      (t.cap.get ch).done = true ∧ (t.cap.get ch).duty = f2 - r) ∧
    (∃ t, runOps [.capStart ch, .evFall ch f1, .evRise ch r] s = some t ∧
      (t.cap.get ch).done = false ∧ (t.cap.get ch).fall = f1 ∧ (t.cap.get ch).rise = r ∧
      (t.cap.get ch).seenR = true ∧
      ∃ u, exec (.evFall ch f2) t = .next u ∧ (u.cap.get ch).done = true) ∧
    (∃ t, runOps [.capStart ch, .evRise ch r, .capStart ch, .evFall ch f] s = some t ∧
      (t.cap.get ch).done = false ∧
      ∃ u, runOps [.evRise ch r2, .evFall ch f2] t = some u ∧ (u.cap.get ch).done = true ∧
        (u.cap.get ch).duty = f2 - r2)

/-- R150: while its flag is clear a channel reads NOT_READY, and only a completing falling edge of that channel sets
the flag; once set, over any operations that are no CAP_START of the channel and no micro-step (which may be one,
R219) the record is unchanged and reads as the same duty. -/
def Obligations.CaptureNotReadyContract : Prop :=
  (∀ (ch : Channel) (s : State), s.cseq = 0 → (s.cap.get ch).done = false →
    exec (.capRead ch) s = .next { s with res := 0x1FFFF#17 }) ∧
  (∀ (ch : Channel) (i : Instr) (s t : State), exec i s = .next t →
    (s.cap.get ch).done = false → (t.cap.get ch).done = true →
    ∃ time, i = .evFall ch time ∧ (s.cap.get ch).enf = true ∧ (s.cap.get ch).seenR = true) ∧
  (∀ (ch : Channel) (ops : List Instr) (s : State), Inv s → (s.cap.get ch).done = true →
    (∀ i ∈ ops, i ≠ .capStart ch ∧ i ≠ .ustep) →
    ∃ t, runOps ops s = some t ∧ t.cap.get ch = s.cap.get ch ∧
      (t.cseq = 0 → exec (.capRead ch) t = .next { t with res := 0#1 ++ (s.cap.get ch).duty }))

/-! ### Conditioning pipeline -/

/-- R161: LDBAND writes the decoded band of its control channel, or the shared tier, from the published value and
returns the code; when the ADC engine is not ready it writes nothing and returns NOT_READY.
Its words with a selector that does not exist are reserved. -/
def Obligations.LdbandLoadsOrHolds : Prop :=
  encodeCw (.ldband .bandSelect1) = 0x3000 ∧ encodeCw (.ldband .bandSelect2) = 0x3004 ∧
  encodeCw (.ldband .powerLimit) = 0x3008 ∧
  (∀ a b c, decode ⟨0x300C, a, b, c⟩ = .error .illegalSelector) ∧
  (∀ s : State, exec (.ldband .bandSelect1) s = .next (
    if s.cseq ≠ 0 then s
    else if s.adc.inProg = true ∨ s.adc.pubv = false then { s with res := 0x1FFFF#17 }
    else { s with
      cc := s.cc.set .ch0 { s.cc.get .ch0 with band := CFG.bandDecode s.adc.pub.c0 }
      res := (CFG.bandDecode s.adc.pub.c0).setWidth 17 })) ∧
  (∀ s : State, exec (.ldband .bandSelect2) s = .next (
    if s.cseq ≠ 0 then s
    else if s.adc.inProg = true ∨ s.adc.pubv = false then { s with res := 0x1FFFF#17 }
    else { s with
      cc := s.cc.set .ch1 { s.cc.get .ch1 with band := CFG.bandDecode s.adc.pub.c1 }
      res := (CFG.bandDecode s.adc.pub.c1).setWidth 17 })) ∧
  (∀ s : State, exec (.ldband .powerLimit) s = .next (
    if s.cseq ≠ 0 then s
    else if s.adc.inProg = true ∨ s.adc.pubv = false then { s with res := 0x1FFFF#17 }
    else { s with
      tier := CFG.tierDecode s.adc.pub.c2
      res := (CFG.tierDecode s.adc.pub.c2).setWidth 17 }))

/-- R164, R165: one cycle of the endpoint lock, from any zone, with every counter counted as a number. `LockInv`,
an invariant of every step, keeps the count below its bound. -/
def Obligations.LockStepFollowsTheHysteresis : Prop :=
  encodeCw (.lockStep .ch0 0) = 0x3100 ∧ encodeCw (.lockStep .ch1 0) = 0x3104 ∧
  ∀ (k : Channel) (x : Word) (s : State), s.cseq = 0 → LockInv (s.lk.get k) →
    ∃ (z : Zone) (d : Rail) (n : Nat) (y : Int),
      (z, d, n, y) = (match (s.lk.get k).zone with
        | .normal =>
          if x.toInt ≤ CFG.lockLowEnter then
            if CFG.nEnter ≤ (if (s.lk.get k).dir = .low then (s.lk.get k).cnt.toNat + 1 else 1) then
              (.lowLock, .low, 0, 0)
            else (.normal, .low, (if (s.lk.get k).dir = .low then (s.lk.get k).cnt.toNat + 1 else 1), x.toInt)
          else if CFG.lockHighEnter ≤ x.toInt then
            if CFG.nEnter ≤ (if (s.lk.get k).dir = .high then (s.lk.get k).cnt.toNat + 1 else 1) then
              (.highLock, .high, 0, 1000)
            else (.normal, .high, (if (s.lk.get k).dir = .high then (s.lk.get k).cnt.toNat + 1 else 1),
              (CFG.lockHighEnter : Int))
          else (.normal, (s.lk.get k).dir, 0, x.toInt)
        | .lowLock =>
          if CFG.lockLowExit < x.toInt then
            if CFG.mExit ≤ (s.lk.get k).cnt.toNat + 1 then (.normal, (s.lk.get k).dir, 0, x.toInt)
            else (.lowLock, (s.lk.get k).dir, (s.lk.get k).cnt.toNat + 1, 0)
          else (.lowLock, (s.lk.get k).dir, 0, 0)
        | .highLock =>
          if x.toInt < CFG.lockHighExit then
            if CFG.mExit ≤ (s.lk.get k).cnt.toNat + 1 then (.normal, (s.lk.get k).dir, 0, x.toInt)
            else (.highLock, (s.lk.get k).dir, (s.lk.get k).cnt.toNat + 1, 1000)
          else (.highLock, (s.lk.get k).dir, 0, 1000) : Zone × Rail × Nat × Int) ∧
      exec (.lockStep k x) s = .next { s with
        lk := s.lk.set k ⟨z, d, BitVec.ofNat 8 n⟩
        res := 0#1 ++ BitVec.ofInt 16 y }

/-- R163: a locked channel whose counter is clear stays locked, with its output at the rail, over any fewer than
M_EXIT cycles, whatever their inputs. -/
def Obligations.LockHoldsForFewerThanExitCycles : Prop :=
  ∀ (k : Channel) (s : State) (xs : List Word), s.cseq = 0 → (s.lk.get k).zone ≠ .normal →
    (s.lk.get k).cnt.toNat + xs.length < CFG.mExit →
    ∃ t, runOps (xs.map (.lockStep k)) s = some t ∧ (t.lk.get k).zone = (s.lk.get k).zone ∧
      (xs ≠ [] → t.res = if (s.lk.get k).zone = .lowLock then 0 else 0#1 ++ 1000#16)

/-- R163: from zone Normal with a clear counter, N_ENTER consecutive cycles qualifying for a rail lock to it, with
the output at the rail, and fewer do not. -/
def Obligations.LockCommitsAfterEnterCycles : Prop :=
  ∀ (k : Channel) (s : State) (xs : List Word), s.cseq = 0 → (s.lk.get k).zone = .normal →
    (s.lk.get k).cnt = 0 →
    ((∀ x ∈ xs, x.toInt ≤ CFG.lockLowEnter) → xs.length ≤ CFG.nEnter →
      ∃ t, runOps (xs.map (.lockStep k)) s = some t ∧
        (if xs.length = CFG.nEnter then (t.lk.get k).zone = .lowLock ∧ (t.lk.get k).cnt = 0 ∧ t.res = 0
          else (t.lk.get k).zone = .normal)) ∧
    ((∀ x ∈ xs, (CFG.lockHighEnter : Int) ≤ x.toInt) → xs.length ≤ CFG.nEnter →
      ∃ t, runOps (xs.map (.lockStep k)) s = some t ∧
        (if xs.length = CFG.nEnter then
            (t.lk.get k).zone = .highLock ∧ (t.lk.get k).cnt = 0 ∧ t.res = 0#1 ++ 1000#16
          else (t.lk.get k).zone = .normal ∧ (xs ≠ [] → t.res = 0#1 ++ BitVec.ofNat 16 CFG.lockHighEnter)))

/-- R167: one sample of the DC-level debounce and the code it returns (Pending 0, Low 1, High 2). -/
def Obligations.DebounceStepFollowsTheSample : Prop :=
  encodeCw (.dcdStep .ch0 false) = 0x3200 ∧ encodeCw (.dcdStep .ch0 true) = 0x3201 ∧
  encodeCw (.dcdStep .ch1 false) = 0x3204 ∧ encodeCw (.dcdStep .ch1 true) = 0x3205 ∧
  ∀ (k : Channel) (level : Bool) (s : State), exec (.dcdStep k level) s = .next (
    if s.cseq ≠ 0 then s
    else if level ≠ (s.dc.get k).cand then { s with dc := s.dc.set k ⟨level, 1⟩, res := 0 }
    else { s with
      dc := s.dc.set k ⟨level, BitVec.ofNat 8 (min ((s.dc.get k).cnt.toNat + 1) 3)⟩
      res := if 2 ≤ (s.dc.get k).cnt.toNat then (if level = true then 2 else 1) else 0 })

/-- R166: from every state, three equal samples in a row report their level on the third, and a sample between two of
the other level leaves the third Pending. -/
def Obligations.DebounceNeedsThreeEqualSamples : Prop :=
  ∀ (k : Channel) (level : Bool) (s : State), s.cseq = 0 →
    (∃ t, runOps [.dcdStep k level, .dcdStep k level, .dcdStep k level] s = some t ∧
      t.res = if level = true then 2 else 1) ∧
    (∃ t, runOps [.dcdStep k level, .dcdStep k (!level), .dcdStep k level] s = some t ∧ t.res = 0 ∧
      t.dc.get k = ⟨level, 1⟩)

/-- R169, R171: with a band position other than External, COND marks the mode Local, maps the band to its fraction of
full scale and touches nothing else of the channel. -/
def Obligations.CondLocalMapsTheBand : Prop :=
  encodeCw (.cond .ch0) = 0x3300 ∧ encodeCw (.cond .ch1) = 0x3304 ∧
  ∀ (k : Channel) (s : State), (s.cc.get k).band ≠ 5 → ∃ v : Word,
    v.toNat = (if (s.cc.get k).band.toNat ≤ 4 then 250 * (s.cc.get k).band.toNat else 0) ∧
    exec (.cond k) s = .next (
      if s.cseq ≠ 0 then s
      else { s with
        cc := s.cc.set k { s.cc.get k with mode := .localMode, inval := v }
        res := 0#1 ++ v })

/-- R169, R170: with band position External, COND runs the timeout, the DC-level debounce, the endpoint lock, the
mode-switch reset and the change gate in the order of R170. `debounceNext`, `lockNext` and `ewUpdate` are the
sub-operations DCD, LOCK and EWUPDATE, whose rules have statements of their own. -/
def Obligations.CondExternalFollowsThePipeline : Prop :=
  ∀ (k : Channel) (s : State), s.cseq = 0 → (s.cc.get k).band = 5 →
    ∃ (tmo : BitVec 2) (dc : DebounceRecord) (cand : Int) (e : EwRecord) (t : State),
      tmo.toNat = (if (s.cap.get k).done = true then 0 else min ((s.cc.get k).tmo.toNat + 1) 2) ∧
      (dc, cand) = (
        if (s.cap.get k).done = true then (s.dc.get k, (CFG.capScale (s.cap.get k).duty : Int))
        else if (s.cc.get k).tmo = 0 then (s.dc.get k, (s.cc.get k).inval.toInt)
        else ((debounceNext (s.dc.get k) (s.pinLvl.get k)).1,
          match (debounceNext (s.dc.get k) (s.pinLvl.get k)).2 with
          | .pending => (s.cc.get k).inval.toInt
          | .low => 0
          | .high => 1000)) ∧
      e = (if (s.cc.get k).mode = .localMode then
            { s.ew.get k with avg := BitVec.ofInt 16 (lockNext CFG (s.lk.get k) cand).2, first := false }
          else s.ew.get k) ∧
      exec (.cond k) s = .next t ∧
      t.ew.get k = (if (CFG.changeWindow : Int) ≤ |(lockNext CFG (s.lk.get k) cand).2 - (s.cc.get k).inval.toInt| then
            ewUpdate e CFG.ewmaEnable (lockNext CFG (s.lk.get k) cand).2 CFG.ewmaDeadBand.toInt CFG.ewmaMaxErr.toInt
          else e) ∧
      t = { s with
        dc := s.dc.set k dc
        lk := s.lk.set k (lockNext CFG (s.lk.get k) cand).1
        ew := s.ew.set k (t.ew.get k)
        cc := s.cc.set k { s.cc.get k with
          tmo := tmo
          mode := .externalMode
          inval :=
            if (CFG.changeWindow : Int) ≤ |(lockNext CFG (s.lk.get k) cand).2 - (s.cc.get k).inval.toInt| then
              (t.ew.get k).avg
            else (s.cc.get k).inval }
        res := 0#1 ++ (t.cc.get k).inval }

/-- R172: in the first External cycle after a Local one the filter's average becomes the post-lock target exactly,
and so does the input value if the change gate passes; if it does not, the input value keeps the Local value, which
is less than CHANGE_WINDOW away. This holds whatever the filter's parameters are. -/
def Obligations.ModeSwitchHasNoSmoothingLag : Prop :=
  ∀ (k : Channel) (s : State), s.cseq = 0 → (s.cc.get k).band = 5 → (s.cc.get k).mode = .localMode →
    ∃ (target : Int) (t : State),
      target = (lockNext CFG (s.lk.get k)
        (candidate CFG (s.cap.get k) (s.cc.get k) (s.dc.get k) (s.pinLvl.get k))).2 ∧
      exec (.cond k) s = .next t ∧ (t.ew.get k).avg.toInt = target ∧ (t.ew.get k).first = false ∧
      (t.cc.get k).mode = .externalMode ∧
      if (CFG.changeWindow : Int) ≤ |target - (s.cc.get k).inval.toInt| then (t.cc.get k).inval.toInt = target
      else (t.cc.get k).inval = (s.cc.get k).inval ∧
        |(t.cc.get k).inval.toInt - target| < CFG.changeWindow

/-- R173: PLIM writes the input value scaled by the shared tier's fraction, truncated toward zero, with no loss in
the narrowing, and returns it; its magnitude does not exceed the input value's. -/
def Obligations.PowerLimitScalesByTheTier : Prop :=
  encodeCw (.plim .ch0) = 0x3400 ∧ encodeCw (.plim .ch1) = 0x3404 ∧
  ∀ (k : Channel) (s : State), ∃ v : Word,
    v.toInt = Int.tdiv ((s.cc.get k).inval.toInt * CFG.tierNum s.tier) (CFG.tierDen s.tier) ∧
    |v.toInt| ≤ |(s.cc.get k).inval.toInt| ∧
    exec (.plim k) s = .next (
      if s.cseq ≠ 0 then s
      else { s with cc := s.cc.set k { s.cc.get k with outval := v }, res := 0#1 ++ v })

/-- R174: OUTG rewrites the output register, clamped to 0..1000 and with its strobe, only if the unclamped output
value differs from it by at least OUT_GATE; it returns the register. -/
def Obligations.OutputGateWritesOnlyRealChanges : Prop :=
  encodeCw (.outg .ch0) = 0x3500 ∧ encodeCw (.outg .ch1) = 0x3504 ∧
  ∀ (k : Channel) (s : State), ∃ v : Word,
    (v.toNat : Int) = max 0 (min (s.cc.get k).outval.toInt 1000) ∧
    exec (.outg k) s = .next (
      if s.cseq ≠ 0 then s
      else if (CFG.outGate : Int) ≤ |(s.cc.get k).outval.toInt - (s.duty.get k).toNat| then
        { s with duty := s.duty.set k v, pulses := .dutyWr k v :: s.pulses, res := 0#1 ++ v }
      else { s with res := 0#1 ++ s.duty.get k })

/-- R175: CHAN has exactly the state changes and the result of COND, PLIM and OUTG issued in a row. -/
def Obligations.ChanIsCondPlimOutg : Prop :=
  encodeCw (.chan .ch0) = 0x3600 ∧ encodeCw (.chan .ch1) = 0x3604 ∧
  ∀ (k : Channel) (s : State), ∃ t, exec (.chan k) s = .next t ∧
    runOps [.cond k, .plim k, .outg k] s = some t ∧ (s.cseq = 0 → t.res = 0#1 ++ t.duty.get k)

/-- R176: EV_PIN changes the pin level and nothing else, in every state. -/
def Obligations.PinEventSetsTheLevel : Prop :=
  encodeCw (.evPin .ch0 false) = 0xE300 ∧ encodeCw (.evPin .ch0 true) = 0xE301 ∧
  encodeCw (.evPin .ch1 false) = 0xE304 ∧ encodeCw (.evPin .ch1 true) = 0xE305 ∧
  ∀ (k : Channel) (level : Bool) (s : State),
    exec (.evPin k level) s = .next { s with pinLvl := s.pinLvl.set k level }

/-! ### EWMA filter -/

/-- R201: EW_INIT sets average, length and first-sample flag, whatever `enabled` is, and returns the average. -/
def Obligations.EwInitSeedsTheFilter : Prop :=
  encodeCw (.ewInit .ch0 false 0 0) = 0x4000 ∧ encodeCw (.ewInit .ch0 true 0 0) = 0x4001 ∧
  encodeCw (.ewInit .ch1 false 0 0) = 0x4004 ∧ encodeCw (.ewInit .ch1 true 0 0) = 0x4005 ∧
  ∀ (k : Channel) (enabled : Bool) (initial length : Word) (s : State),
    exec (.ewInit k enabled initial length) s = .next (
      if s.cseq ≠ 0 then s
      else { s with ew := s.ew.set k ⟨initial, length, true⟩, res := 0#1 ++ initial })

/-- R202: EW_RESET forces the average, clears the first-sample flag, leaves the length, and returns the average. -/
def Obligations.EwResetForcesTheAverage : Prop :=
  encodeCw (.ewReset .ch0 0) = 0x4100 ∧ encodeCw (.ewReset .ch1 0) = 0x4104 ∧
  ∀ (k : Channel) (value : Word) (s : State), exec (.ewReset k value) s = .next (
    if s.cseq ≠ 0 then s
    else { s with ew := s.ew.set k { s.ew.get k with avg := value, first := false }, res := 0#1 ++ value })

/-- R203: EW_UPDATE, all five outcomes in the order of the rule. -/
def Obligations.EwUpdateFollowsTheRule : Prop :=
  encodeCw (.ewUpdate .ch0 false 0 0 0) = 0x4200 ∧ encodeCw (.ewUpdate .ch0 true 0 0 0) = 0x4201 ∧
  encodeCw (.ewUpdate .ch1 false 0 0 0) = 0x4204 ∧ encodeCw (.ewUpdate .ch1 true 0 0 0) = 0x4205 ∧
  ∀ (k : Channel) (enabled : Bool) (sample deadBand maxError : Word) (s : State), ∃ e : EwRecord,
    e = (if enabled = false ∨ (s.ew.get k).len.toInt ≤ 0 ∨ maxError.toInt < deadBand.toInt then s.ew.get k
      else if (s.ew.get k).first = true then { s.ew.get k with avg := sample, first := false }
      else if maxError.toInt < |sample.toInt - (s.ew.get k).avg.toInt| then s.ew.get k
      else if deadBand.toInt < |sample.toInt - (s.ew.get k).avg.toInt| then { s.ew.get k with avg := sample }
      else { s.ew.get k with avg := BitVec.ofInt 16 (Int.tdiv
        ((s.ew.get k).avg.toInt * ((s.ew.get k).len.toInt - 1) + sample.toInt) (s.ew.get k).len.toInt) }) ∧
    exec (.ewUpdate k enabled sample deadBand maxError) s = .next (
      if s.cseq ≠ 0 then s else { s with ew := s.ew.set k e, res := 0#1 ++ e.avg })

/-- R204: the value EW_UPDATE returns is the old average, the sample, or the weighted value, which is not changed by
narrowing to S16; it lies between the old average and the sample, so it is in 0..1000 when they are. -/
def Obligations.EwUpdateStaysBetweenAverageAndSample : Prop :=
  ∀ (k : Channel) (enabled : Bool) (sample deadBand maxError : Word) (s : State), s.cseq = 0 →
    ∃ t, exec (.ewUpdate k enabled sample deadBand maxError) s = .next t ∧
      ((t.ew.get k).avg = (s.ew.get k).avg ∨ (t.ew.get k).avg = sample ∨
        (1 ≤ (s.ew.get k).len.toInt ∧ (t.ew.get k).avg.toInt = Int.tdiv
          ((s.ew.get k).avg.toInt * ((s.ew.get k).len.toInt - 1) + sample.toInt) (s.ew.get k).len.toInt)) ∧
      min (s.ew.get k).avg.toInt sample.toInt ≤ (t.ew.get k).avg.toInt ∧
      (t.ew.get k).avg.toInt ≤ max (s.ew.get k).avg.toInt sample.toInt ∧
      (InDuty (s.ew.get k).avg → InDuty sample → InDuty (t.ew.get k).avg)

/-- R281: a sample whose error exceeds the maximum is rejected every time it is presented, for ever. -/
def Obligations.LargeStepIsNeverFollowed : Prop :=
  ∀ (k : Channel) (enabled : Bool) (sample deadBand maxError : Word) (s : State) (n : Nat), s.cseq = 0 →
    (s.ew.get k).first = false → maxError.toInt < |sample.toInt - (s.ew.get k).avg.toInt| →
    ∃ t, runOps (List.replicate n (.ewUpdate k enabled sample deadBand maxError)) s = some t ∧ t.ew = s.ew

/-! ### Whole-machine rules -/

/-- R240: every operation completes in one transition from every state with every operand value, and so does every
step. -/
def Obligations.EveryOperationCompletes : Prop :=
  (∀ (i : Instr) (s : State), ∃ t, exec i s = .next t) ∧ ∀ s : State, ∃ t, step s = .next t

/-- R69: events of different groups commute; a rising and a falling edge of one channel do not. -/
def Obligations.EventsOfDifferentGroupsCommute : Prop :=
  (∀ (i j : Instr) (g h : Nat) (s : State), Statements.eventGroup i = some g → Statements.eventGroup j = some h →
    g ≠ h → ∃ t, runOps [i, j] s = some t ∧ runOps [j, i] s = some t) ∧
  ∀ ch : Channel, ∃ (s : State) (r f : Word),
    runOps [.evRise ch r, .evFall ch f] s ≠ runOps [.evFall ch f, .evRise ch r] s

/-- R49: events and micro-steps leave RES alone; every other operation, when it is accepted, leaves a result there
that is NOT_READY or a value. -/
def Obligations.OnlyCommandsWriteTheResult : Prop :=
  (∀ (i : Instr) (s : State), i.port = .event ∨ i = .ustep → ∃ t, exec i s = .next t ∧ t.res = s.res) ∧
  (∀ (i : Instr) (s : State), i.port = .command → i ≠ .ustep → s.cseq = 0 →
    ∃ t, exec i s = .next t ∧ (t.res = 0x1FFFF#17 ∨ ∃ v : Word, t.res = 0#1 ++ v))

/-- R61, the columns written, the capture record field by field: an operation leaves unchanged every element that its
row does not mark W; the trace is never an operation's to change. USTEP, whose row is that of the micro-step it
executes, is left to `Obligations.UstepPerformsTheMicroStep`. -/
def Obligations.OperationsWriteOnlyTheirRow : Prop :=
  ∀ (i : Instr) (s : State), ∃ t, exec i s = .next t ∧ t.inputs = s.inputs ∧
    (i ≠ .ustep →
      ((∀ f, i ≠ .adcStart f) → (∀ r, i ≠ .evAdc r) → t.adc = s.adc) ∧
      ((∀ r, i ≠ .evAdc r) → t.adc.pub = s.adc.pub ∧ t.adc.pubv = s.adc.pubv) ∧
      (∀ ch, (∀ v, i ≠ .evRise ch v) → (t.cap.get ch).rise = (s.cap.get ch).rise) ∧
      (∀ ch, (∀ v, i ≠ .evFall ch v) →
        (t.cap.get ch).fall = (s.cap.get ch).fall ∧ (t.cap.get ch).duty = (s.cap.get ch).duty) ∧
      (∀ ch, i ≠ .capStart ch → (∀ v, i ≠ .evFall ch v) → (t.cap.get ch).done = (s.cap.get ch).done) ∧
      (∀ ch, i ≠ .capStart ch → (∀ v, i ≠ .evRise ch v) → (t.cap.get ch).seenR = (s.cap.get ch).seenR) ∧
      (∀ ch, i ≠ .capStart ch → i ≠ .capStop ch → (∀ v, i ≠ .evFall ch v) →
        (t.cap.get ch).enr = (s.cap.get ch).enr ∧ (t.cap.get ch).enf = (s.cap.get ch).enf) ∧
      (∀ k, i ≠ .cond k → i ≠ .chan k → (∀ b v w, i ≠ .ewInit k b v w) → (∀ v, i ≠ .ewReset k v) →
        (∀ b v w x, i ≠ .ewUpdate k b v w x) → t.ew.get k = s.ew.get k) ∧
      (∀ k, i ≠ .cond k → i ≠ .chan k → (∀ x, i ≠ .lockStep k x) → t.lk.get k = s.lk.get k) ∧
      (∀ k, i ≠ .cond k → i ≠ .chan k → (∀ l, i ≠ .dcdStep k l) → t.dc.get k = s.dc.get k) ∧
      (∀ k, i ≠ .cond k → i ≠ .chan k → (t.cc.get k).inval = (s.cc.get k).inval ∧
        (t.cc.get k).mode = (s.cc.get k).mode ∧ (t.cc.get k).tmo = (s.cc.get k).tmo) ∧
      (∀ k, i ≠ .plim k → i ≠ .chan k → (t.cc.get k).outval = (s.cc.get k).outval) ∧
      ((∀ c, i ≠ .ldband c) → t.tier = s.tier ∧ ∀ k, (t.cc.get k).band = (s.cc.get k).band) ∧
      (∀ k, i ≠ .outg k → i ≠ .chan k → t.duty.get k = s.duty.get k) ∧
      (∀ k, (∀ l, i ≠ .evPin k l) → t.pinLvl.get k = s.pinLvl.get k) ∧
      (i ≠ .cycle → t.cseq = s.cseq))

/-- R65: the commands the rule calls idempotent leave, issued twice, what they left issued once; ADC_START with
force 1 leaves the same block state each time, one more request apart. -/
def Obligations.IdempotentCommandsRepeatWithoutEffect : Prop :=
  (∀ (i : Instr) (s : State),
    (i = .nop ∨ (∃ c, i = .adcRead c) ∨ (∃ ch, i = .capRead ch) ∨ (∃ ch, i = .capStart ch) ∨
      (∃ ch, i = .capStop ch) ∨ (∃ k v, i = .ewReset k v) ∨ (∃ k b v w, i = .ewInit k b v w) ∨
      i = .adcStart false) →
    ∃ t, runOps [i] s = some t ∧ runOps [i, i] s = some t) ∧
  (∀ s : State, s.cseq = 0 → ∃ t, runOps [.adcStart true] s = some t ∧
    runOps [.adcStart true, .adcStart true] s = some { t with pulses := .adcReq 0 :: t.pulses })

/-- R27, R32, R38, R39, R44, R46, R48: the invariant of every reachable state is kept by every step, whatever is
presented. -/
def Obligations.StepKeepsTheStateInvariant : Prop :=
  ∀ s t : State, Inv s → step s = .next t → Inv t

/-- The invariant holds at reset. -/
def Obligations.ResetMeetsTheStateInvariant : Prop := Inv State.reset

/-- R177: filter averages, input values and output values of both channels stay in 0..1000 over every step but a filter
command with a value operand outside it. R177 names EW_INIT and EW_RESET; EW_UPDATE with such a sample is excluded
too, since it adopts it (log 17). -/
def Obligations.StepKeepsValuesInTheDutyRange : Prop :=
  ∀ s t : State, ValuesInRange s → (∀ i, nextActivity s = .run i → FilterOperandInRange i) →
    step s = .next t → ValuesInRange t

/-- The values are in 0..1000 at reset. -/
def Obligations.ResetValuesAreInTheDutyRange : Prop := ValuesInRange State.reset
end

