-- ==== Sys2Proof/Laws/Arith.lean ====
section
/-! SUPPORT. The arithmetic primitives of R12 and R13 in terms of the library's, the result word, and the bounds
of the duty, the weighted average, the power limit and the clamp. -/

namespace Sys2Proof.Machine

open Sys2Proof.Safety

theorem s16_eq_toInt (w : Word) : s16 w = w.toInt := by
  unfold s16
  rw [BitVec.toInt_eq_toNat_cond]
  split <;> split <;> omega

theorem s16_lower (w : Word) : -32768 ≤ s16 w := by
  have := w.isLt
  unfold s16
  split <;> omega

theorem s16_upper (w : Word) : s16 w ≤ 32767 := by
  have := w.isLt
  unfold s16
  split <;> omega

@[simp] theorem u16_s16 (w : Word) : u16 (s16 w) = w := by
  rw [s16_eq_toInt, u16, BitVec.ofInt_toInt]

/-- Narrowing a value that fits S16 loses nothing. -/
theorem s16_u16 {v : Int} (hl : -32768 ≤ v) (hu : v ≤ 32767) : s16 (u16 v) = v := by
  rw [s16_eq_toInt, u16, BitVec.toInt_ofInt]
  exact Int.bmod_eq_of_le (by omega) (by omega)

theorem u16_toNat {v : Int} (hl : 0 ≤ v) (hu : v ≤ 65535) : (u16 v).toNat = v.toNat := by
  simp only [u16, BitVec.toNat_ofInt]
  omega

@[simp] theorem resNotReady_readyWord (w : Word) : resNotReady (readyWord w) = false := by
  rw [resNotReady, readyWord, BitVec.getLsbD_append]
  rfl

@[simp] theorem resNotReady_ready (v : Int) : resNotReady (ready v) = false := resNotReady_readyWord _

@[simp] theorem resNotReady_notReady : resNotReady notReady = true := by decide

@[simp] theorem resValue_readyWord (w : Word) : resValue (readyWord w) = w := by
  apply BitVec.eq_of_toNat_eq
  have := w.isLt
  simp only [resValue, readyWord, BitVec.toNat_setWidth, BitVec.toNat_append]
  simpa using this

theorem readyWord_ne_notReady (w : Word) : readyWord w ≠ notReady := fun h => by
  have := resNotReady_readyWord w
  rw [h] at this
  simp at this

/-- `tdiv` is the library's truncating division (R13). -/
theorem tdiv_eq {a b : Int} : tdiv a b = Int.tdiv a b := by
  unfold tdiv
  split
  · rename_i h
    exact (Int.tdiv_eq_ediv_of_nonneg h).symm
  · rename_i h
    have h' : 0 ≤ -a := by omega
    rw [← Int.tdiv_eq_ediv_of_nonneg h', Int.neg_tdiv, neg_neg]

/-- A truncated quotient lies between two integers when the exact one does (R204). -/
theorem tdiv_between {a b lo hi : Int} (hb : 0 < b) (h1 : lo * b ≤ a) (h2 : a ≤ hi * b) :
    lo ≤ tdiv a b ∧ tdiv a b ≤ hi := by
  unfold tdiv
  split
  · exact ⟨(Int.le_ediv_iff_mul_le hb).mpr h1, Int.ediv_le_of_le_mul hb h2⟩
  · constructor
    · have : -a / b ≤ -lo := Int.ediv_le_of_le_mul hb (by linarith)
      omega
    · have : -hi ≤ -a / b := (Int.le_ediv_iff_mul_le hb).mpr (by linarith)
      omega

/-- The weighted update lies between the average and the sample (R204). -/
theorem weightedAverage_between {a len x lo hi : Int} (hlen : 0 < len) (ha : lo ≤ a) (ha' : a ≤ hi)
    (hx : lo ≤ x) (hx' : x ≤ hi) : lo ≤ weightedAverage a len x ∧ weightedAverage a len x ≤ hi := by
  refine tdiv_between hlen ?_ ?_
  · nlinarith [mul_nonneg (by omega : (0 : Int) ≤ a - lo) (by omega : (0 : Int) ≤ len - 1)]
  · nlinarith [mul_nonneg (by omega : (0 : Int) ≤ hi - a) (by omega : (0 : Int) ≤ len - 1)]

/-- The high time is the wrapped 16-bit difference of the timestamps (R147). -/
theorem edgeDuty_eq {c : Config} (h : c.timerWrap = 65536) (rise fall : Word) : edgeDuty c rise fall = fall - rise := by
  apply BitVec.eq_of_toNat_eq
  have hr := rise.isLt
  have hf := fall.isLt
  unfold edgeDuty
  rw [h]
  split
  · rw [u16_toNat (by omega) (by omega), BitVec.toNat_sub]; omega
  · rw [u16_toNat (by omega) (by omega), BitVec.toNat_sub]; omega

theorem clamp_bounds {v lo hi : Int} (h : lo ≤ hi) : lo ≤ clamp v lo hi ∧ clamp v lo hi ≤ hi := by
  unfold clamp; omega

theorem clampedDuty_le (w : Word) : (clampedDuty w).toNat ≤ dutyMax := by
  have h := @clamp_bounds (s16 w) 0 dutyMax (by decide)
  rw [clampedDuty, u16_toNat h.1 (by simp [dutyMax] at h ⊢; omega)]
  omega

/-- The output value lies between 0 and the input value (R173, R177). -/
theorem limited_between {c : Config} (hc : c.Wf) (t : BitVec 2) {w : Word} (h : 0 ≤ s16 w) :
    0 ≤ s16 (limited c t w) ∧ s16 (limited c t w) ≤ s16 w := by
  have hd : (0 : Int) < c.tierDen t := by exact_mod_cast hc.tierDen_pos t
  have hn : (c.tierNum t : Int) ≤ c.tierDen t := by exact_mod_cast hc.tierNum_le t
  have hb : 0 ≤ tdiv (s16 w * c.tierNum t) (c.tierDen t) ∧ tdiv (s16 w * c.tierNum t) (c.tierDen t) ≤ s16 w := by
    refine tdiv_between hd ?_ ?_
    · simpa using mul_nonneg h (Int.natCast_nonneg _)
    · exact mul_le_mul_of_nonneg_left hn h
  have hu := s16_upper w
  unfold limited
  rw [s16_u16 (by omega) (by omega)]
  exact hb

end Sys2Proof.Machine
end

