-- ==== Sys2Proof/Laws/Grid.lean ====
section
/-! SUPPORT. The laws of the pending-sample grid, the block's only memory-like array: a read after a write, every
other cell unchanged, and the well-formedness of R21 kept by every grid operation. -/

namespace Sys2Proof.Machine

open Sys2Proof.Safety

/-- A row read after a row write. -/
theorem rowRead_rowWrite (t : Trio Word) (c c' : Nat) (v : Word) :
    rowRead (rowWrite t c v) c' = if c' = c ∧ c < 3 then v else rowRead t c' := by
  rcases c with _ | _ | _ | c <;> rcases c' with _ | _ | _ | c' <;> simp [rowRead, rowWrite]

/-- A grid read after a grid write: the written cell reads the value, every other cell as before. -/
theorem Grid.read_write (g : Grid) (r c r' c' : Nat) (v : Word) :
    (g.write r c v).read r' c' = if r' = r ∧ c' = c ∧ r < 4 ∧ c < 3 then v else g.read r' c' := by
  rcases r with _ | _ | _ | _ | r <;> rcases r' with _ | _ | _ | _ | r' <;>
    simp [Grid.read, Grid.write, rowRead_rowWrite]

/-- The cleared grid reads 0 everywhere. -/
@[simp] theorem Grid.read_zero (r c : Nat) : Grid.zero.read r c = 0 := by
  rcases r with _ | _ | _ | _ | r <;> rcases c with _ | _ | _ | c <;> rfl

/-- A read outside the grid is 0. -/
theorem Grid.read_outside (g : Grid) {r c : Nat} (h : 4 ≤ r ∨ 3 ≤ c) : g.read r c = 0 := by
  rcases r with _ | _ | _ | _ | r <;> rcases c with _ | _ | _ | c <;> simp_all [Grid.read, rowRead]

/-- The cleared grid is well-formed. -/
theorem gridWf_zero : GridWf Grid.zero := fun r c => by simp

/-- A write of a 10-bit value keeps the grid well-formed. -/
theorem gridWf_write {g : Grid} (h : GridWf g) (r c : Nat) {v : Word} (hv : v.toNat < 1024) :
    GridWf (g.write r c v) := by
  intro r' c'
  rw [Grid.read_write]
  split
  · exact hv
  · exact h r' c'

/-- A masked sample is a 10-bit value, the raw word modulo 1024. -/
theorem maskSample_toNat (raw : Word) : (maskSample raw).toNat = raw.toNat % 1024 := by
  have := Nat.and_two_pow_sub_one_eq_mod raw.toNat 10
  simpa [maskSample] using this

theorem maskSample_lt (raw : Word) : (maskSample raw).toNat < 1024 := by
  rw [maskSample_toNat]; omega

/-- Storing a sample keeps the grid well-formed. -/
theorem gridWf_storeSample {a : AdcUnit} (h : GridWf a.grid) (raw : Word) : GridWf (storeSample a raw) :=
  gridWf_write h _ _ (maskSample_lt raw)

/-- The mean of four 10-bit samples is their exact sum divided by 4, rounded down (R124). -/
theorem Grid.mean_toNat {g : Grid} (h : GridWf g) (c : Nat) :
    (g.mean c).toNat =
      ((g.read 0 c).toNat + (g.read 1 c).toNat + (g.read 2 c).toNat + (g.read 3 c).toNat) / 4 := by
  have h0 := h 0 c
  have h1 := h 1 c
  have h2 := h 2 c
  have h3 := h 3 c
  simp only [Grid.mean, Nat.shiftRight_eq_div_pow, BitVec.toNat_ofNat]
  omega

theorem Grid.mean_lt {g : Grid} (h : GridWf g) (c : Nat) : (g.mean c).toNat < 1024 := by
  have h0 := h 0 c
  have h1 := h 1 c
  have h2 := h 2 c
  have h3 := h 3 c
  rw [Grid.mean_toNat h]
  omega

/-- The means of a well-formed grid are well-formed published values. -/
theorem pubWf_means {g : Grid} (h : GridWf g) : PubWf g.means := by
  intro c
  cases c <;> exact Grid.mean_lt h _

end Sys2Proof.Machine
end

