-- ==== Sys2Proof/Laws/State.lean ====
section
/-! SUPPORT. One lemma per field per update of State, and the laws of the per-channel records. -/

namespace Sys2Proof.Machine

@[simp] theorem setAdc_adc (s : State) (a : AdcUnit) : (setAdc s a).adc = a := rfl
@[simp] theorem setAdc_cap (s : State) (a : AdcUnit) : (setAdc s a).cap = s.cap := rfl
@[simp] theorem setAdc_ew (s : State) (a : AdcUnit) : (setAdc s a).ew = s.ew := rfl
@[simp] theorem setAdc_lk (s : State) (a : AdcUnit) : (setAdc s a).lk = s.lk := rfl
@[simp] theorem setAdc_dc (s : State) (a : AdcUnit) : (setAdc s a).dc = s.dc := rfl
@[simp] theorem setAdc_cc (s : State) (a : AdcUnit) : (setAdc s a).cc = s.cc := rfl
@[simp] theorem setAdc_tier (s : State) (a : AdcUnit) : (setAdc s a).tier = s.tier := rfl
@[simp] theorem setAdc_duty (s : State) (a : AdcUnit) : (setAdc s a).duty = s.duty := rfl
@[simp] theorem setAdc_pinLvl (s : State) (a : AdcUnit) : (setAdc s a).pinLvl = s.pinLvl := rfl
@[simp] theorem setAdc_cseq (s : State) (a : AdcUnit) : (setAdc s a).cseq = s.cseq := rfl
@[simp] theorem setAdc_res (s : State) (a : AdcUnit) : (setAdc s a).res = s.res := rfl
@[simp] theorem setAdc_inputs (s : State) (a : AdcUnit) : (setAdc s a).inputs = s.inputs := rfl
@[simp] theorem setAdc_pulses (s : State) (a : AdcUnit) : (setAdc s a).pulses = s.pulses := rfl

@[simp] theorem setCap_adc (s : State) (k : Channel) (r : CapRecord) : (setCap s k r).adc = s.adc := rfl
@[simp] theorem setCap_cap (s : State) (k : Channel) (r : CapRecord) : (setCap s k r).cap = s.cap.set k r := rfl
@[simp] theorem setCap_ew (s : State) (k : Channel) (r : CapRecord) : (setCap s k r).ew = s.ew := rfl
@[simp] theorem setCap_lk (s : State) (k : Channel) (r : CapRecord) : (setCap s k r).lk = s.lk := rfl
@[simp] theorem setCap_dc (s : State) (k : Channel) (r : CapRecord) : (setCap s k r).dc = s.dc := rfl
@[simp] theorem setCap_cc (s : State) (k : Channel) (r : CapRecord) : (setCap s k r).cc = s.cc := rfl
@[simp] theorem setCap_tier (s : State) (k : Channel) (r : CapRecord) : (setCap s k r).tier = s.tier := rfl
@[simp] theorem setCap_duty (s : State) (k : Channel) (r : CapRecord) : (setCap s k r).duty = s.duty := rfl
@[simp] theorem setCap_pinLvl (s : State) (k : Channel) (r : CapRecord) : (setCap s k r).pinLvl = s.pinLvl := rfl
@[simp] theorem setCap_cseq (s : State) (k : Channel) (r : CapRecord) : (setCap s k r).cseq = s.cseq := rfl
@[simp] theorem setCap_res (s : State) (k : Channel) (r : CapRecord) : (setCap s k r).res = s.res := rfl
@[simp] theorem setCap_inputs (s : State) (k : Channel) (r : CapRecord) : (setCap s k r).inputs = s.inputs := rfl
@[simp] theorem setCap_pulses (s : State) (k : Channel) (r : CapRecord) : (setCap s k r).pulses = s.pulses := rfl

@[simp] theorem setEw_adc (s : State) (k : Channel) (r : EwRecord) : (setEw s k r).adc = s.adc := rfl
@[simp] theorem setEw_cap (s : State) (k : Channel) (r : EwRecord) : (setEw s k r).cap = s.cap := rfl
@[simp] theorem setEw_ew (s : State) (k : Channel) (r : EwRecord) : (setEw s k r).ew = s.ew.set k r := rfl
@[simp] theorem setEw_lk (s : State) (k : Channel) (r : EwRecord) : (setEw s k r).lk = s.lk := rfl
@[simp] theorem setEw_dc (s : State) (k : Channel) (r : EwRecord) : (setEw s k r).dc = s.dc := rfl
@[simp] theorem setEw_cc (s : State) (k : Channel) (r : EwRecord) : (setEw s k r).cc = s.cc := rfl
@[simp] theorem setEw_tier (s : State) (k : Channel) (r : EwRecord) : (setEw s k r).tier = s.tier := rfl
@[simp] theorem setEw_duty (s : State) (k : Channel) (r : EwRecord) : (setEw s k r).duty = s.duty := rfl
@[simp] theorem setEw_pinLvl (s : State) (k : Channel) (r : EwRecord) : (setEw s k r).pinLvl = s.pinLvl := rfl
@[simp] theorem setEw_cseq (s : State) (k : Channel) (r : EwRecord) : (setEw s k r).cseq = s.cseq := rfl
@[simp] theorem setEw_res (s : State) (k : Channel) (r : EwRecord) : (setEw s k r).res = s.res := rfl
@[simp] theorem setEw_inputs (s : State) (k : Channel) (r : EwRecord) : (setEw s k r).inputs = s.inputs := rfl
@[simp] theorem setEw_pulses (s : State) (k : Channel) (r : EwRecord) : (setEw s k r).pulses = s.pulses := rfl

@[simp] theorem setLk_adc (s : State) (k : Channel) (r : LockRecord) : (setLk s k r).adc = s.adc := rfl
@[simp] theorem setLk_cap (s : State) (k : Channel) (r : LockRecord) : (setLk s k r).cap = s.cap := rfl
@[simp] theorem setLk_ew (s : State) (k : Channel) (r : LockRecord) : (setLk s k r).ew = s.ew := rfl
@[simp] theorem setLk_lk (s : State) (k : Channel) (r : LockRecord) : (setLk s k r).lk = s.lk.set k r := rfl
@[simp] theorem setLk_dc (s : State) (k : Channel) (r : LockRecord) : (setLk s k r).dc = s.dc := rfl
@[simp] theorem setLk_cc (s : State) (k : Channel) (r : LockRecord) : (setLk s k r).cc = s.cc := rfl
@[simp] theorem setLk_tier (s : State) (k : Channel) (r : LockRecord) : (setLk s k r).tier = s.tier := rfl
@[simp] theorem setLk_duty (s : State) (k : Channel) (r : LockRecord) : (setLk s k r).duty = s.duty := rfl
@[simp] theorem setLk_pinLvl (s : State) (k : Channel) (r : LockRecord) : (setLk s k r).pinLvl = s.pinLvl := rfl
@[simp] theorem setLk_cseq (s : State) (k : Channel) (r : LockRecord) : (setLk s k r).cseq = s.cseq := rfl
@[simp] theorem setLk_res (s : State) (k : Channel) (r : LockRecord) : (setLk s k r).res = s.res := rfl
@[simp] theorem setLk_inputs (s : State) (k : Channel) (r : LockRecord) : (setLk s k r).inputs = s.inputs := rfl
@[simp] theorem setLk_pulses (s : State) (k : Channel) (r : LockRecord) : (setLk s k r).pulses = s.pulses := rfl

@[simp] theorem setDc_adc (s : State) (k : Channel) (r : DebounceRecord) : (setDc s k r).adc = s.adc := rfl
@[simp] theorem setDc_cap (s : State) (k : Channel) (r : DebounceRecord) : (setDc s k r).cap = s.cap := rfl
@[simp] theorem setDc_ew (s : State) (k : Channel) (r : DebounceRecord) : (setDc s k r).ew = s.ew := rfl
@[simp] theorem setDc_lk (s : State) (k : Channel) (r : DebounceRecord) : (setDc s k r).lk = s.lk := rfl
@[simp] theorem setDc_dc (s : State) (k : Channel) (r : DebounceRecord) : (setDc s k r).dc = s.dc.set k r := rfl
@[simp] theorem setDc_cc (s : State) (k : Channel) (r : DebounceRecord) : (setDc s k r).cc = s.cc := rfl
@[simp] theorem setDc_tier (s : State) (k : Channel) (r : DebounceRecord) : (setDc s k r).tier = s.tier := rfl
@[simp] theorem setDc_duty (s : State) (k : Channel) (r : DebounceRecord) : (setDc s k r).duty = s.duty := rfl
@[simp] theorem setDc_pinLvl (s : State) (k : Channel) (r : DebounceRecord) : (setDc s k r).pinLvl = s.pinLvl := rfl
@[simp] theorem setDc_cseq (s : State) (k : Channel) (r : DebounceRecord) : (setDc s k r).cseq = s.cseq := rfl
@[simp] theorem setDc_res (s : State) (k : Channel) (r : DebounceRecord) : (setDc s k r).res = s.res := rfl
@[simp] theorem setDc_inputs (s : State) (k : Channel) (r : DebounceRecord) : (setDc s k r).inputs = s.inputs := rfl
@[simp] theorem setDc_pulses (s : State) (k : Channel) (r : DebounceRecord) : (setDc s k r).pulses = s.pulses := rfl

@[simp] theorem setCc_adc (s : State) (k : Channel) (r : ControlRecord) : (setCc s k r).adc = s.adc := rfl
@[simp] theorem setCc_cap (s : State) (k : Channel) (r : ControlRecord) : (setCc s k r).cap = s.cap := rfl
@[simp] theorem setCc_ew (s : State) (k : Channel) (r : ControlRecord) : (setCc s k r).ew = s.ew := rfl
@[simp] theorem setCc_lk (s : State) (k : Channel) (r : ControlRecord) : (setCc s k r).lk = s.lk := rfl
@[simp] theorem setCc_dc (s : State) (k : Channel) (r : ControlRecord) : (setCc s k r).dc = s.dc := rfl
@[simp] theorem setCc_cc (s : State) (k : Channel) (r : ControlRecord) : (setCc s k r).cc = s.cc.set k r := rfl
@[simp] theorem setCc_tier (s : State) (k : Channel) (r : ControlRecord) : (setCc s k r).tier = s.tier := rfl
@[simp] theorem setCc_duty (s : State) (k : Channel) (r : ControlRecord) : (setCc s k r).duty = s.duty := rfl
@[simp] theorem setCc_pinLvl (s : State) (k : Channel) (r : ControlRecord) : (setCc s k r).pinLvl = s.pinLvl := rfl
@[simp] theorem setCc_cseq (s : State) (k : Channel) (r : ControlRecord) : (setCc s k r).cseq = s.cseq := rfl
@[simp] theorem setCc_res (s : State) (k : Channel) (r : ControlRecord) : (setCc s k r).res = s.res := rfl
@[simp] theorem setCc_inputs (s : State) (k : Channel) (r : ControlRecord) : (setCc s k r).inputs = s.inputs := rfl
@[simp] theorem setCc_pulses (s : State) (k : Channel) (r : ControlRecord) : (setCc s k r).pulses = s.pulses := rfl

@[simp] theorem setTier_adc (s : State) (t : BitVec 2) : (setTier s t).adc = s.adc := rfl
@[simp] theorem setTier_cap (s : State) (t : BitVec 2) : (setTier s t).cap = s.cap := rfl
@[simp] theorem setTier_ew (s : State) (t : BitVec 2) : (setTier s t).ew = s.ew := rfl
@[simp] theorem setTier_lk (s : State) (t : BitVec 2) : (setTier s t).lk = s.lk := rfl
@[simp] theorem setTier_dc (s : State) (t : BitVec 2) : (setTier s t).dc = s.dc := rfl
@[simp] theorem setTier_cc (s : State) (t : BitVec 2) : (setTier s t).cc = s.cc := rfl
@[simp] theorem setTier_tier (s : State) (t : BitVec 2) : (setTier s t).tier = t := rfl
@[simp] theorem setTier_duty (s : State) (t : BitVec 2) : (setTier s t).duty = s.duty := rfl
@[simp] theorem setTier_pinLvl (s : State) (t : BitVec 2) : (setTier s t).pinLvl = s.pinLvl := rfl
@[simp] theorem setTier_cseq (s : State) (t : BitVec 2) : (setTier s t).cseq = s.cseq := rfl
@[simp] theorem setTier_res (s : State) (t : BitVec 2) : (setTier s t).res = s.res := rfl
@[simp] theorem setTier_inputs (s : State) (t : BitVec 2) : (setTier s t).inputs = s.inputs := rfl
@[simp] theorem setTier_pulses (s : State) (t : BitVec 2) : (setTier s t).pulses = s.pulses := rfl

@[simp] theorem setDuty_adc (s : State) (k : Channel) (v : Word) : (setDuty s k v).adc = s.adc := rfl
@[simp] theorem setDuty_cap (s : State) (k : Channel) (v : Word) : (setDuty s k v).cap = s.cap := rfl
@[simp] theorem setDuty_ew (s : State) (k : Channel) (v : Word) : (setDuty s k v).ew = s.ew := rfl
@[simp] theorem setDuty_lk (s : State) (k : Channel) (v : Word) : (setDuty s k v).lk = s.lk := rfl
@[simp] theorem setDuty_dc (s : State) (k : Channel) (v : Word) : (setDuty s k v).dc = s.dc := rfl
@[simp] theorem setDuty_cc (s : State) (k : Channel) (v : Word) : (setDuty s k v).cc = s.cc := rfl
@[simp] theorem setDuty_tier (s : State) (k : Channel) (v : Word) : (setDuty s k v).tier = s.tier := rfl
@[simp] theorem setDuty_duty (s : State) (k : Channel) (v : Word) : (setDuty s k v).duty = s.duty.set k v := rfl
@[simp] theorem setDuty_pinLvl (s : State) (k : Channel) (v : Word) : (setDuty s k v).pinLvl = s.pinLvl := rfl
@[simp] theorem setDuty_cseq (s : State) (k : Channel) (v : Word) : (setDuty s k v).cseq = s.cseq := rfl
@[simp] theorem setDuty_res (s : State) (k : Channel) (v : Word) : (setDuty s k v).res = s.res := rfl
@[simp] theorem setDuty_inputs (s : State) (k : Channel) (v : Word) : (setDuty s k v).inputs = s.inputs := rfl
@[simp] theorem setDuty_pulses (s : State) (k : Channel) (v : Word) : (setDuty s k v).pulses = s.pulses := rfl

@[simp] theorem setPin_adc (s : State) (k : Channel) (b : Bool) : (setPin s k b).adc = s.adc := rfl
@[simp] theorem setPin_cap (s : State) (k : Channel) (b : Bool) : (setPin s k b).cap = s.cap := rfl
@[simp] theorem setPin_ew (s : State) (k : Channel) (b : Bool) : (setPin s k b).ew = s.ew := rfl
@[simp] theorem setPin_lk (s : State) (k : Channel) (b : Bool) : (setPin s k b).lk = s.lk := rfl
@[simp] theorem setPin_dc (s : State) (k : Channel) (b : Bool) : (setPin s k b).dc = s.dc := rfl
@[simp] theorem setPin_cc (s : State) (k : Channel) (b : Bool) : (setPin s k b).cc = s.cc := rfl
@[simp] theorem setPin_tier (s : State) (k : Channel) (b : Bool) : (setPin s k b).tier = s.tier := rfl
@[simp] theorem setPin_duty (s : State) (k : Channel) (b : Bool) : (setPin s k b).duty = s.duty := rfl
@[simp] theorem setPin_pinLvl (s : State) (k : Channel) (b : Bool) : (setPin s k b).pinLvl = s.pinLvl.set k b := rfl
@[simp] theorem setPin_cseq (s : State) (k : Channel) (b : Bool) : (setPin s k b).cseq = s.cseq := rfl
@[simp] theorem setPin_res (s : State) (k : Channel) (b : Bool) : (setPin s k b).res = s.res := rfl
@[simp] theorem setPin_inputs (s : State) (k : Channel) (b : Bool) : (setPin s k b).inputs = s.inputs := rfl
@[simp] theorem setPin_pulses (s : State) (k : Channel) (b : Bool) : (setPin s k b).pulses = s.pulses := rfl

@[simp] theorem setCseq_adc (s : State) (n : BitVec 4) : (setCseq s n).adc = s.adc := rfl
@[simp] theorem setCseq_cap (s : State) (n : BitVec 4) : (setCseq s n).cap = s.cap := rfl
@[simp] theorem setCseq_ew (s : State) (n : BitVec 4) : (setCseq s n).ew = s.ew := rfl
@[simp] theorem setCseq_lk (s : State) (n : BitVec 4) : (setCseq s n).lk = s.lk := rfl
@[simp] theorem setCseq_dc (s : State) (n : BitVec 4) : (setCseq s n).dc = s.dc := rfl
@[simp] theorem setCseq_cc (s : State) (n : BitVec 4) : (setCseq s n).cc = s.cc := rfl
@[simp] theorem setCseq_tier (s : State) (n : BitVec 4) : (setCseq s n).tier = s.tier := rfl
@[simp] theorem setCseq_duty (s : State) (n : BitVec 4) : (setCseq s n).duty = s.duty := rfl
@[simp] theorem setCseq_pinLvl (s : State) (n : BitVec 4) : (setCseq s n).pinLvl = s.pinLvl := rfl
@[simp] theorem setCseq_cseq (s : State) (n : BitVec 4) : (setCseq s n).cseq = n := rfl
@[simp] theorem setCseq_res (s : State) (n : BitVec 4) : (setCseq s n).res = s.res := rfl
@[simp] theorem setCseq_inputs (s : State) (n : BitVec 4) : (setCseq s n).inputs = s.inputs := rfl
@[simp] theorem setCseq_pulses (s : State) (n : BitVec 4) : (setCseq s n).pulses = s.pulses := rfl

@[simp] theorem setRes_adc (s : State) (r : ResultWord) : (setRes s r).adc = s.adc := rfl
@[simp] theorem setRes_cap (s : State) (r : ResultWord) : (setRes s r).cap = s.cap := rfl
@[simp] theorem setRes_ew (s : State) (r : ResultWord) : (setRes s r).ew = s.ew := rfl
@[simp] theorem setRes_lk (s : State) (r : ResultWord) : (setRes s r).lk = s.lk := rfl
@[simp] theorem setRes_dc (s : State) (r : ResultWord) : (setRes s r).dc = s.dc := rfl
@[simp] theorem setRes_cc (s : State) (r : ResultWord) : (setRes s r).cc = s.cc := rfl
@[simp] theorem setRes_tier (s : State) (r : ResultWord) : (setRes s r).tier = s.tier := rfl
@[simp] theorem setRes_duty (s : State) (r : ResultWord) : (setRes s r).duty = s.duty := rfl
@[simp] theorem setRes_pinLvl (s : State) (r : ResultWord) : (setRes s r).pinLvl = s.pinLvl := rfl
@[simp] theorem setRes_cseq (s : State) (r : ResultWord) : (setRes s r).cseq = s.cseq := rfl
@[simp] theorem setRes_res (s : State) (r : ResultWord) : (setRes s r).res = r := rfl
@[simp] theorem setRes_inputs (s : State) (r : ResultWord) : (setRes s r).inputs = s.inputs := rfl
@[simp] theorem setRes_pulses (s : State) (r : ResultWord) : (setRes s r).pulses = s.pulses := rfl

@[simp] theorem setInputs_adc (s : State) (l : List Input) : (setInputs s l).adc = s.adc := rfl
@[simp] theorem setInputs_cap (s : State) (l : List Input) : (setInputs s l).cap = s.cap := rfl
@[simp] theorem setInputs_ew (s : State) (l : List Input) : (setInputs s l).ew = s.ew := rfl
@[simp] theorem setInputs_lk (s : State) (l : List Input) : (setInputs s l).lk = s.lk := rfl
@[simp] theorem setInputs_dc (s : State) (l : List Input) : (setInputs s l).dc = s.dc := rfl
@[simp] theorem setInputs_cc (s : State) (l : List Input) : (setInputs s l).cc = s.cc := rfl
@[simp] theorem setInputs_tier (s : State) (l : List Input) : (setInputs s l).tier = s.tier := rfl
@[simp] theorem setInputs_duty (s : State) (l : List Input) : (setInputs s l).duty = s.duty := rfl
@[simp] theorem setInputs_pinLvl (s : State) (l : List Input) : (setInputs s l).pinLvl = s.pinLvl := rfl
@[simp] theorem setInputs_cseq (s : State) (l : List Input) : (setInputs s l).cseq = s.cseq := rfl
@[simp] theorem setInputs_res (s : State) (l : List Input) : (setInputs s l).res = s.res := rfl
@[simp] theorem setInputs_inputs (s : State) (l : List Input) : (setInputs s l).inputs = l := rfl
@[simp] theorem setInputs_pulses (s : State) (l : List Input) : (setInputs s l).pulses = s.pulses := rfl

@[simp] theorem emit_adc (s : State) (p : Pulse) : (emit s p).adc = s.adc := rfl
@[simp] theorem emit_cap (s : State) (p : Pulse) : (emit s p).cap = s.cap := rfl
@[simp] theorem emit_ew (s : State) (p : Pulse) : (emit s p).ew = s.ew := rfl
@[simp] theorem emit_lk (s : State) (p : Pulse) : (emit s p).lk = s.lk := rfl
@[simp] theorem emit_dc (s : State) (p : Pulse) : (emit s p).dc = s.dc := rfl
@[simp] theorem emit_cc (s : State) (p : Pulse) : (emit s p).cc = s.cc := rfl
@[simp] theorem emit_tier (s : State) (p : Pulse) : (emit s p).tier = s.tier := rfl
@[simp] theorem emit_duty (s : State) (p : Pulse) : (emit s p).duty = s.duty := rfl
@[simp] theorem emit_pinLvl (s : State) (p : Pulse) : (emit s p).pinLvl = s.pinLvl := rfl
@[simp] theorem emit_cseq (s : State) (p : Pulse) : (emit s p).cseq = s.cseq := rfl
@[simp] theorem emit_res (s : State) (p : Pulse) : (emit s p).res = s.res := rfl
@[simp] theorem emit_inputs (s : State) (p : Pulse) : (emit s p).inputs = s.inputs := rfl
@[simp] theorem emit_pulses (s : State) (p : Pulse) : (emit s p).pulses = p :: s.pulses := rfl

/-! ### Per-channel records -/

@[simp] theorem Pair.get_set_same {α : Type} (p : Pair α) (k : Channel) (a : α) : (p.set k a).get k = a := by
  cases k <;> rfl

theorem Pair.get_set_other {α : Type} (p : Pair α) {k j : Channel} (h : j ≠ k) (a : α) :
    (p.set k a).get j = p.get j := by
  cases k <;> cases j <;> first | rfl | exact absurd rfl h

theorem Pair.get_set {α : Type} (p : Pair α) (k j : Channel) (a : α) :
    (p.set k a).get j = if j = k then a else p.get j := by
  cases k <;> cases j <;> rfl

@[simp] theorem Pair.set_get {α : Type} (p : Pair α) (k : Channel) : p.set k (p.get k) = p := by
  cases k <;> rfl

@[simp] theorem Pair.set_set {α : Type} (p : Pair α) (k : Channel) (a b : α) : (p.set k a).set k b = p.set k b := by
  cases k <;> rfl

theorem Pair.set_comm {α : Type} (p : Pair α) {k j : Channel} (h : j ≠ k) (a b : α) :
    (p.set k a).set j b = (p.set j b).set k a := by
  cases k <;> cases j <;> first | rfl | exact absurd rfl h

@[simp] theorem Pair.get_both {α : Type} (a : α) (k : Channel) : (Pair.both a).get k = a := by
  cases k <;> rfl

@[simp] theorem Trio.get_all {α : Type} (a : α) (c : AdcChannel) : (Trio.all a).get c = a := by
  cases c <;> rfl

/-- A property of both records survives a write that has it (used by every invariant over channels). -/
theorem Pair.forall_set {α : Type} {P : α → Prop} {p : Pair α} {k : Channel} {a : α}
    (hp : ∀ j, P (p.get j)) (ha : P a) : ∀ j, P ((p.set k a).get j) := by
  intro j
  rw [Pair.get_set]
  split
  · exact ha
  · exact hp j

end Sys2Proof.Machine
end

