-- ==== Sys2Proof/Laws/Ops.lean ====
section
/-! SUPPORT. For each shared operation, what it can do, said once: the cases of its result and the invariant
each keeps. Proofs cite these instead of unfolding the operation. -/

namespace Sys2Proof.Machine

open Sys2Proof.Safety

/-! ### Ports -/

theorem busy_iff (s : State) : busy s = true ↔ s.cseq ≠ 0 := by
  rw [busy, bne_iff_ne]

theorem idle_iff (s : State) : busy s = false ↔ s.cseq = 0 := by
  rw [busy, bne_eq_false_iff_eq]

theorem acceptCommand_idle {s : State} (h : s.cseq = 0) (f : State → State) : acceptCommand s f = f s := by
  rw [acceptCommand, (idle_iff s).mpr h]; rfl

theorem acceptCommand_busy {s : State} (h : s.cseq ≠ 0) (f : State → State) : acceptCommand s f = s := by
  rw [acceptCommand, (busy_iff s).mpr h]; rfl

/-- A command is either dropped, while a control cycle runs, or performed (R218). -/
theorem acceptCommand_cases (s : State) (f : State → State) :
    (s.cseq ≠ 0 ∧ acceptCommand s f = s) ∨ (s.cseq = 0 ∧ acceptCommand s f = f s) := by
  by_cases h : s.cseq = 0
  · exact .inr ⟨h, acceptCommand_idle h f⟩
  · exact .inl ⟨h, acceptCommand_busy h f⟩

@[simp] theorem takeEvent_eq (s : State) (f : State → State) : takeEvent s f = f s := rfl

/-- What a word on a port is: an operation on its port or on the other, a reserved word or an illegal selector the
port accepts, or an illegal selector in a word the port does not accept (R97 to R99). -/
theorem classify_cases (p : Port) (w : OpWord) :
    (∃ i, decode w = .ok i ∧ i.port = p ∧ classify p w = .run i) ∨
    (∃ i, decode w = .ok i ∧ i.port ≠ p ∧ classify p w = .wrongPort) ∨
    (∃ e, decode w = .error e ∧ (e = .illegalSelector → portAcceptsUnit p w.cw = true) ∧
      classify p w = .reserved p) ∨
    (decode w = .error .illegalSelector ∧ portAcceptsUnit p w.cw = false ∧ classify p w = .wrongPort) := by
  unfold classify
  cases decode w with
  | ok i => by_cases h : i.port = p <;> simp [h]
  | error e => cases e <;> cases portAcceptsUnit p w.cw <;> simp

/-- What a step can do (R66, R97 to R99, R220, R270). -/
theorem step_cases (s : State) :
    (∃ i, nextActivity s = .run i ∧ step s = exec i (taken s)) ∨
    (∃ p, nextActivity s = .reserved p ∧ step s = .next (reservedWord p (taken s))) ∨
    (nextActivity s = .wrongPort ∧ step s = .next (taken s)) ∨
    (nextActivity s = .reset ∧ step s = .next (applyReset (taken s))) ∨
    (nextActivity s = .idle ∧ step s = .next s) := by
  unfold step
  cases h : nextActivity s with
  | run i => exact .inl ⟨i, rfl, rfl⟩
  | reserved p => exact .inr (.inl ⟨p, rfl, rfl⟩)
  | wrongPort => exact .inr (.inr (.inl ⟨rfl, rfl⟩))
  | reset => exact .inr (.inr (.inr (.inl ⟨rfl, rfl⟩)))
  | idle => exact .inr (.inr (.inr (.inr ⟨rfl, rfl⟩)))

/-! ### ADC averaging engine -/

/-- ADC_START is a keep-alive or a restart (R121). -/
theorem adcStart_cases (force : Bool) (s : State) :
    (s.adc.inProg = true ∧ force = false ∧ adcStart force s = s) ∨
    ((s.adc.inProg = false ∨ force = true) ∧
      adcStart force s =
        emit (setAdc s { s.adc with round := 0, chan := 0, grid := Grid.zero, inProg := true }) (.adcReq 0)) := by
  cases h : s.adc.inProg <;> cases force <;> simp [adcStart, h]

/-- EV_ADC is ignored, completes the batch, or stores a sample and requests the next (R123). -/
theorem conversionComplete_cases (raw : Word) (s : State) :
    (s.adc.inProg = false ∧ conversionComplete raw s = s) ∨
    (s.adc.inProg = true ∧ nextRound s.adc = 4 ∧
      conversionComplete raw s =
        setAdc s { grid := storeSample s.adc raw, round := nextRound s.adc, chan := nextChan s.adc
                   inProg := false, pub := (storeSample s.adc raw).means, pubv := true }) ∨
    (s.adc.inProg = true ∧ nextRound s.adc ≠ 4 ∧
      conversionComplete raw s =
        emit (setAdc s { s.adc with grid := storeSample s.adc raw, round := nextRound s.adc, chan := nextChan s.adc })
          (.adcReq (nextChan s.adc))) := by
  unfold conversionComplete
  cases h : s.adc.inProg
  · exact .inl ⟨rfl, rfl⟩
  · by_cases h4 : nextRound s.adc = 4
    · exact .inr (.inl ⟨rfl, h4, by simp [h4]⟩)
    · refine .inr (.inr ⟨rfl, h4, ?_⟩)
      rw [if_pos rfl, if_neg h4]

/-- The indices after a sample stored at (r, c) with r in 0..3, c in 0..2 (R123). -/
theorem nextIndices {a : AdcUnit} (hr : a.round.toNat < 4) (hc : a.chan.toNat < 3) :
    (a.chan.toNat = 2 ∧ (nextChan a).toNat = 0 ∧ (nextRound a).toNat = a.round.toNat + 1) ∨
    (a.chan.toNat < 2 ∧ (nextChan a).toNat = a.chan.toNat + 1 ∧ nextRound a = a.round) := by
  obtain ⟨grid, round, chan, inProg, pub, pubv⟩ := a
  revert hr hc
  simp only [nextChan, nextRound]
  revert round chan
  decide

/-! ### Capture engine -/

/-- A falling edge with its source enabled records its timestamp and completes the measurement iff a rising edge
was seen, with the wrapped difference as duty (R145, R147). -/
theorem fallRecord_cases (r : CapRecord) (time : Word) :
    (r.seenR = false ∧ fallRecord CFG r time = { r with fall := time }) ∨
    (r.seenR = true ∧
      fallRecord CFG r time =
        { r with fall := time, duty := time - r.rise, done := true, enr := false, enf := false }) := by
  unfold fallRecord
  rw [edgeDuty_eq CFG_wf.timerWrap_eq]
  cases r.seenR
  · exact .inl ⟨rfl, rfl⟩
  · exact .inr ⟨rfl, rfl⟩

theorem capInv_start (r : CapRecord) : CapInv { r with done := false, seenR := false, enr := true, enf := true } where
  enables := rfl
  disarmed h := by simp at h
  seen h := by simp at h
  duty h := by simp at h

theorem capInv_stop {r : CapRecord} (h : CapInv r) : CapInv { r with enr := false, enf := false } where
  enables := rfl
  disarmed _ := rfl
  seen := h.seen
  duty := h.duty

theorem capInv_rise {r : CapRecord} (h : CapInv r) (he : r.enr = true) (time : Word) :
    CapInv { r with rise := time, seenR := true } := by
  have hd : r.done = false := by
    cases hd : r.done
    · rfl
    · have := h.disarmed hd; rw [← h.enables, he] at this; cases this
  exact ⟨h.enables, fun h' => by simp [hd] at h', fun _ => rfl, fun h' => by simp [hd] at h'⟩

theorem capInv_fall {r : CapRecord} (h : CapInv r) (he : r.enf = true) (time : Word) :
    CapInv (fallRecord CFG r time) := by
  have hd : r.done = false := by
    cases hd : r.done
    · rfl
    · have := h.disarmed hd; rw [he] at this; cases this
  rcases fallRecord_cases r time with ⟨_, e⟩ | ⟨hs, e⟩ <;> rw [e]
  · exact ⟨h.enables, fun h' => by simp [hd] at h', fun h' => by simp [hd] at h', fun h' => by simp [hd] at h'⟩
  · exact ⟨rfl, fun _ => rfl, fun _ => hs, fun _ => rfl⟩

/-! ### Endpoint lock and debounce -/

/-- A count below 255 advances by one. -/
theorem count_succ {n : BitVec 8} (h : n.toNat < 255) : (n + 1).toNat = n.toNat + 1 := by
  rw [BitVec.toNat_add]
  exact Nat.mod_eq_of_lt (show n.toNat + 1 < 256 by omega)

theorem lockHeld_inv {l : LockRecord} (hz : l.zone ≠ .normal) (q : Bool) (rail x : Int) :
    LockInv (lockHeld CFG l q rail x).1 := by
  have hwf := CFG_wf
  have h1 := hwf.nEnter_pos
  have h2 := hwf.nEnter_lt_mExit
  have h0 : ∀ z : Zone, LockInv { l with zone := z, cnt := 0 } := fun z => by
    cases z <;> simp [LockInv] <;> omega
  unfold lockHeld
  split
  · split
    · exact h0 .normal
    · rename_i hlt
      cases hz' : l.zone
      · exact absurd hz' hz
      · simp only [LockInv]; omega
      · simp only [LockInv]; omega
  · exact h0 l.zone

theorem lockNormal_inv {l : LockRecord} (hz : l.zone = .normal) (x : Int) : LockInv (lockNormal CFG l x).1 := by
  have hwf := CFG_wf
  have h1 := hwf.nEnter_pos
  have h2 := hwf.nEnter_lt_mExit
  unfold lockNormal
  split
  · split
    · simp [LockInv]; omega
    · simp_all [LockInv]
  · split
    · split
      · simp [LockInv]; omega
      · simp_all [LockInv]
    · simp [LockInv, hz]; omega

/-- One cycle of the lock keeps its counter below its bound (R38). -/
theorem lockNext_inv (l : LockRecord) (x : Int) : LockInv (lockNext CFG l x).1 := by
  unfold lockNext
  cases hz : l.zone
  · exact lockNormal_inv hz x
  · exact lockHeld_inv (by simp [hz]) _ _ _
  · exact lockHeld_inv (by simp [hz]) _ _ _

/-- The lock's output is its input, a rail, or the high-enter threshold (R165). -/
theorem lockNext_output (c : Config) (l : LockRecord) (x : Int) :
    (lockNext c l x).2 = x ∨ (lockNext c l x).2 = 0 ∨ (lockNext c l x).2 = (dutyMax : Int) ∨
      (lockNext c l x).2 = (c.lockHighEnter : Int) := by
  unfold lockNext lockNormal lockHeld
  cases l.zone <;> (dsimp only; (repeat' split) <;> simp)

theorem lockNext_range {l : LockRecord} {x : Int} (h : 0 ≤ x ∧ x ≤ (dutyMax : Int)) :
    0 ≤ (lockNext CFG l x).2 ∧ (lockNext CFG l x).2 ≤ (dutyMax : Int) := by
  have hh := CFG_wf.highEnter_le
  have hm : (0 : Int) ≤ (dutyMax : Int) := by decide
  rcases lockNext_output CFG l x with e | e | e | e <;> rw [e] <;> omega

/-- The debounce counter saturates at its threshold (R39). -/
theorem debounceNext_cnt (d : DebounceRecord) (level : Bool) : (debounceNext d level).1.cnt.toNat ≤ dcConsist := by
  unfold debounceNext satInc
  split
  · exact (by decide : 1 ≤ dcConsist)
  · simp only [BitVec.toNat_ofNat]
    exact le_trans (Nat.mod_le _ _) (Nat.min_le_right _ _)

theorem debounceAfter_cnt (r : CapRecord) (cc : ControlRecord) {d : DebounceRecord} (h : d.cnt.toNat ≤ dcConsist)
    (pin : Bool) : (debounceAfter r cc d pin).cnt.toNat ≤ dcConsist := by
  unfold debounceAfter
  split
  · exact debounceNext_cnt d pin
  · exact h

/-- The timeout counter saturates at its threshold (R44). -/
theorem timeoutNext_le (r : CapRecord) (cc : ControlRecord) : (timeoutNext r cc).toNat ≤ tmoMax := by
  unfold timeoutNext satInc
  split
  · decide
  · simp only [BitVec.toNat_ofNat]
    exact le_trans (Nat.mod_le _ _) (Nat.min_le_right _ _)

/-! ### Filter and pipeline ranges -/

theorem inDuty_u16 {v : Int} (h : 0 ≤ v ∧ v ≤ (dutyMax : Int)) : InDuty (u16 v) := by
  have hm : (dutyMax : Int) = 1000 := rfl
  have e : s16 (u16 v) = v := s16_u16 (by omega) (by omega)
  unfold InDuty
  rw [e]
  exact h

/-- An update whose sample and average are in the duty domain leaves the average there (R204). -/
theorem ewUpdate_inDuty {e : EwRecord} (he : InDuty e.avg) (en : Bool) {x : Int} (hx : 0 ≤ x ∧ x ≤ (dutyMax : Int))
    (db me : Int) : InDuty (ewUpdate e en x db me).avg := by
  unfold ewUpdate
  split
  · exact he
  · rename_i hn
    have hl : 0 < s16 e.len := by
      by_contra hc
      exact hn (by simp [filterNeutral]; omega)
    repeat' split
    · exact inDuty_u16 hx
    · exact he
    · exact inDuty_u16 hx
    · exact inDuty_u16 (weightedAverage_between hl he.1 he.2 hx.1 hx.2)

theorem candidate_range {r : CapRecord} {cc : ControlRecord} (h : InDuty cc.inval) (d : DebounceRecord) (pin : Bool) :
    0 ≤ candidate CFG r cc d pin ∧ candidate CFG r cc d pin ≤ (dutyMax : Int) := by
  have hc := CFG_wf.capScale_le r.duty
  have hm : (0 : Int) ≤ (dutyMax : Int) := by decide
  obtain ⟨h1, h2⟩ := h
  unfold candidate
  repeat' split
  all_goals omega

theorem localMap_inDuty (b : BitVec 3) : InDuty (localMap b) := by
  revert b
  unfold InDuty
  decide

end Sys2Proof.Machine
end

