-- ==== Sys2Proof/Laws/PerInstr.lean ====
section
/-! SUPPORT. Statements about every instruction as syntax, one lemma per constructor of Instr: decoding an encoded
operation gives it back (R96, R97, R101); the word of an operation selects the row of R96 that has its mnemonic, with
a legal selector; the port of an operation accepts its word (R90). -/

namespace Sys2Proof.Laws

/-- Decoding of a word given by its parts; the operation word is looked at apart from the operands. -/
theorem decode_mk (cw opa opb opc : Word) :
    decode ⟨cw, opa, opb, opc⟩ =
      if z1Of cw ≠ 0 then .error .reservedZ1
      else if z0Of cw ≠ 0 then .error .reservedZ0
      else decodeUnit ⟨cw, opa, opb, opc⟩ (unitOf cw) (funcOf cw) (selOf cw) (flgOf cw) := rfl

end Sys2Proof.Laws

namespace Sys2Proof.Laws.RoundTrip

/-- The encoding of `i` decodes to `i`. -/
def Statement (i : Instr) : Prop :=
  decode (encode i) = .ok i

theorem nop : Statement (.nop) := rfl
theorem cycle : Statement (.cycle) := rfl
theorem ustep : Statement (.ustep) := rfl
theorem adcStart (force : Bool) : Statement (.adcStart force) := by
  cases force <;> rfl
theorem adcRead (c : AdcChannel) : Statement (.adcRead c) := by
  cases c <;> rfl
theorem capStart (ch : Channel) : Statement (.capStart ch) := by
  cases ch <;> rfl
theorem capStop (ch : Channel) : Statement (.capStop ch) := by
  cases ch <;> rfl
theorem capRead (ch : Channel) : Statement (.capRead ch) := by
  cases ch <;> rfl
theorem ldband (c : AdcChannel) : Statement (.ldband c) := by
  cases c <;> rfl
theorem lockStep (k : Channel) (x : Word) : Statement (.lockStep k x) := by
  cases k
  · exact (decode_mk (encodeCw (.lockStep .ch0 0)) x 0 0).trans rfl
  · exact (decode_mk (encodeCw (.lockStep .ch1 0)) x 0 0).trans rfl
theorem dcdStep (k : Channel) (level : Bool) : Statement (.dcdStep k level) := by
  cases k <;> cases level <;> rfl
theorem cond (k : Channel) : Statement (.cond k) := by
  cases k <;> rfl
theorem plim (k : Channel) : Statement (.plim k) := by
  cases k <;> rfl
theorem outg (k : Channel) : Statement (.outg k) := by
  cases k <;> rfl
theorem chan (k : Channel) : Statement (.chan k) := by
  cases k <;> rfl
theorem ewInit (k : Channel) (enabled : Bool) (initial length : Word) : Statement (.ewInit k enabled initial length) := by
  cases k <;> cases enabled
  · exact (decode_mk (encodeCw (.ewInit .ch0 false 0 0)) initial length 0).trans rfl
  · exact (decode_mk (encodeCw (.ewInit .ch0 true 0 0)) initial length 0).trans rfl
  · exact (decode_mk (encodeCw (.ewInit .ch1 false 0 0)) initial length 0).trans rfl
  · exact (decode_mk (encodeCw (.ewInit .ch1 true 0 0)) initial length 0).trans rfl
theorem ewReset (k : Channel) (value : Word) : Statement (.ewReset k value) := by
  cases k
  · exact (decode_mk (encodeCw (.ewReset .ch0 0)) value 0 0).trans rfl
  · exact (decode_mk (encodeCw (.ewReset .ch1 0)) value 0 0).trans rfl
theorem ewUpdate (k : Channel) (enabled : Bool) (sample deadBand maxError : Word) : Statement (.ewUpdate k enabled sample deadBand maxError) := by
  cases k <;> cases enabled
  · exact (decode_mk (encodeCw (.ewUpdate .ch0 false 0 0 0)) sample deadBand maxError).trans rfl
  · exact (decode_mk (encodeCw (.ewUpdate .ch0 true 0 0 0)) sample deadBand maxError).trans rfl
  · exact (decode_mk (encodeCw (.ewUpdate .ch1 false 0 0 0)) sample deadBand maxError).trans rfl
  · exact (decode_mk (encodeCw (.ewUpdate .ch1 true 0 0 0)) sample deadBand maxError).trans rfl
theorem evAdc (raw : Word) : Statement (.evAdc raw) := by
  exact (decode_mk (encodeCw (.evAdc 0)) raw 0 0).trans rfl
theorem evRise (ch : Channel) (time : Word) : Statement (.evRise ch time) := by
  cases ch
  · exact (decode_mk (encodeCw (.evRise .ch0 0)) time 0 0).trans rfl
  · exact (decode_mk (encodeCw (.evRise .ch1 0)) time 0 0).trans rfl
theorem evFall (ch : Channel) (time : Word) : Statement (.evFall ch time) := by
  cases ch
  · exact (decode_mk (encodeCw (.evFall .ch0 0)) time 0 0).trans rfl
  · exact (decode_mk (encodeCw (.evFall .ch1 0)) time 0 0).trans rfl
theorem evPin (k : Channel) (level : Bool) : Statement (.evPin k level) := by
  cases k <;> cases level <;> rfl

end Sys2Proof.Laws.RoundTrip

namespace Sys2Proof.Laws.TableRow

/-- The word of `i` selects the row of R96 with the mnemonic of `i`, and its selector is legal there. -/
def Statement (i : Instr) : Prop :=
  ∃ r ∈ opcodeTable, r.mnemonic = i.mnemonic ∧ r.selects (encodeCw i) = true ∧ r.selLegal (encodeCw i) = true

theorem nop : Statement (.nop) := 
  ⟨opcodeTable[0], List.getElem_mem _, rfl, by rfl, by rfl⟩
theorem cycle : Statement (.cycle) := 
  ⟨opcodeTable[1], List.getElem_mem _, rfl, by rfl, by rfl⟩
theorem ustep : Statement (.ustep) := 
  ⟨opcodeTable[2], List.getElem_mem _, rfl, by rfl, by rfl⟩
theorem adcStart (force : Bool) : Statement (.adcStart force) := 
  ⟨opcodeTable[3], List.getElem_mem _, rfl, by cases force <;> rfl, by cases force <;> rfl⟩
theorem adcRead (c : AdcChannel) : Statement (.adcRead c) := 
  ⟨opcodeTable[4], List.getElem_mem _, rfl, by cases c <;> rfl, by cases c <;> rfl⟩
theorem capStart (ch : Channel) : Statement (.capStart ch) := 
  ⟨opcodeTable[5], List.getElem_mem _, rfl, by cases ch <;> rfl, by cases ch <;> rfl⟩
theorem capStop (ch : Channel) : Statement (.capStop ch) := 
  ⟨opcodeTable[6], List.getElem_mem _, rfl, by cases ch <;> rfl, by cases ch <;> rfl⟩
theorem capRead (ch : Channel) : Statement (.capRead ch) := 
  ⟨opcodeTable[7], List.getElem_mem _, rfl, by cases ch <;> rfl, by cases ch <;> rfl⟩
theorem ldband (c : AdcChannel) : Statement (.ldband c) := 
  ⟨opcodeTable[8], List.getElem_mem _, rfl, by cases c <;> rfl, by cases c <;> rfl⟩
theorem lockStep (k : Channel) (x : Word) : Statement (.lockStep k x) := by
  cases k
  · exact ⟨opcodeTable[9], List.getElem_mem _, rfl, (rfl : opcodeTable[9].selects (encodeCw (.lockStep .ch0 0)) = true), (rfl : opcodeTable[9].selLegal (encodeCw (.lockStep .ch0 0)) = true)⟩
  · exact ⟨opcodeTable[9], List.getElem_mem _, rfl, (rfl : opcodeTable[9].selects (encodeCw (.lockStep .ch1 0)) = true), (rfl : opcodeTable[9].selLegal (encodeCw (.lockStep .ch1 0)) = true)⟩
theorem dcdStep (k : Channel) (level : Bool) : Statement (.dcdStep k level) := 
  ⟨opcodeTable[10], List.getElem_mem _, rfl, by cases k <;> cases level <;> rfl, by cases k <;> cases level <;> rfl⟩
theorem cond (k : Channel) : Statement (.cond k) := 
  ⟨opcodeTable[11], List.getElem_mem _, rfl, by cases k <;> rfl, by cases k <;> rfl⟩
theorem plim (k : Channel) : Statement (.plim k) := 
  ⟨opcodeTable[12], List.getElem_mem _, rfl, by cases k <;> rfl, by cases k <;> rfl⟩
theorem outg (k : Channel) : Statement (.outg k) := 
  ⟨opcodeTable[13], List.getElem_mem _, rfl, by cases k <;> rfl, by cases k <;> rfl⟩
theorem chan (k : Channel) : Statement (.chan k) := 
  ⟨opcodeTable[14], List.getElem_mem _, rfl, by cases k <;> rfl, by cases k <;> rfl⟩
theorem ewInit (k : Channel) (enabled : Bool) (initial length : Word) : Statement (.ewInit k enabled initial length) := by
  cases k <;> cases enabled
  · exact ⟨opcodeTable[15], List.getElem_mem _, rfl, (rfl : opcodeTable[15].selects (encodeCw (.ewInit .ch0 false 0 0)) = true), (rfl : opcodeTable[15].selLegal (encodeCw (.ewInit .ch0 false 0 0)) = true)⟩
  · exact ⟨opcodeTable[15], List.getElem_mem _, rfl, (rfl : opcodeTable[15].selects (encodeCw (.ewInit .ch0 true 0 0)) = true), (rfl : opcodeTable[15].selLegal (encodeCw (.ewInit .ch0 true 0 0)) = true)⟩
  · exact ⟨opcodeTable[15], List.getElem_mem _, rfl, (rfl : opcodeTable[15].selects (encodeCw (.ewInit .ch1 false 0 0)) = true), (rfl : opcodeTable[15].selLegal (encodeCw (.ewInit .ch1 false 0 0)) = true)⟩
  · exact ⟨opcodeTable[15], List.getElem_mem _, rfl, (rfl : opcodeTable[15].selects (encodeCw (.ewInit .ch1 true 0 0)) = true), (rfl : opcodeTable[15].selLegal (encodeCw (.ewInit .ch1 true 0 0)) = true)⟩
theorem ewReset (k : Channel) (value : Word) : Statement (.ewReset k value) := by
  cases k
  · exact ⟨opcodeTable[16], List.getElem_mem _, rfl, (rfl : opcodeTable[16].selects (encodeCw (.ewReset .ch0 0)) = true), (rfl : opcodeTable[16].selLegal (encodeCw (.ewReset .ch0 0)) = true)⟩
  · exact ⟨opcodeTable[16], List.getElem_mem _, rfl, (rfl : opcodeTable[16].selects (encodeCw (.ewReset .ch1 0)) = true), (rfl : opcodeTable[16].selLegal (encodeCw (.ewReset .ch1 0)) = true)⟩
theorem ewUpdate (k : Channel) (enabled : Bool) (sample deadBand maxError : Word) : Statement (.ewUpdate k enabled sample deadBand maxError) := by
  cases k <;> cases enabled
  · exact ⟨opcodeTable[17], List.getElem_mem _, rfl, (rfl : opcodeTable[17].selects (encodeCw (.ewUpdate .ch0 false 0 0 0)) = true), (rfl : opcodeTable[17].selLegal (encodeCw (.ewUpdate .ch0 false 0 0 0)) = true)⟩
  · exact ⟨opcodeTable[17], List.getElem_mem _, rfl, (rfl : opcodeTable[17].selects (encodeCw (.ewUpdate .ch0 true 0 0 0)) = true), (rfl : opcodeTable[17].selLegal (encodeCw (.ewUpdate .ch0 true 0 0 0)) = true)⟩
  · exact ⟨opcodeTable[17], List.getElem_mem _, rfl, (rfl : opcodeTable[17].selects (encodeCw (.ewUpdate .ch1 false 0 0 0)) = true), (rfl : opcodeTable[17].selLegal (encodeCw (.ewUpdate .ch1 false 0 0 0)) = true)⟩
  · exact ⟨opcodeTable[17], List.getElem_mem _, rfl, (rfl : opcodeTable[17].selects (encodeCw (.ewUpdate .ch1 true 0 0 0)) = true), (rfl : opcodeTable[17].selLegal (encodeCw (.ewUpdate .ch1 true 0 0 0)) = true)⟩
theorem evAdc (raw : Word) : Statement (.evAdc raw) := by
  exact ⟨opcodeTable[18], List.getElem_mem _, rfl, (rfl : opcodeTable[18].selects (encodeCw (.evAdc 0)) = true), (rfl : opcodeTable[18].selLegal (encodeCw (.evAdc 0)) = true)⟩
theorem evRise (ch : Channel) (time : Word) : Statement (.evRise ch time) := by
  cases ch
  · exact ⟨opcodeTable[19], List.getElem_mem _, rfl, (rfl : opcodeTable[19].selects (encodeCw (.evRise .ch0 0)) = true), (rfl : opcodeTable[19].selLegal (encodeCw (.evRise .ch0 0)) = true)⟩
  · exact ⟨opcodeTable[19], List.getElem_mem _, rfl, (rfl : opcodeTable[19].selects (encodeCw (.evRise .ch1 0)) = true), (rfl : opcodeTable[19].selLegal (encodeCw (.evRise .ch1 0)) = true)⟩
theorem evFall (ch : Channel) (time : Word) : Statement (.evFall ch time) := by
  cases ch
  · exact ⟨opcodeTable[20], List.getElem_mem _, rfl, (rfl : opcodeTable[20].selects (encodeCw (.evFall .ch0 0)) = true), (rfl : opcodeTable[20].selLegal (encodeCw (.evFall .ch0 0)) = true)⟩
  · exact ⟨opcodeTable[20], List.getElem_mem _, rfl, (rfl : opcodeTable[20].selects (encodeCw (.evFall .ch1 0)) = true), (rfl : opcodeTable[20].selLegal (encodeCw (.evFall .ch1 0)) = true)⟩
theorem evPin (k : Channel) (level : Bool) : Statement (.evPin k level) := 
  ⟨opcodeTable[21], List.getElem_mem _, rfl, by cases k <;> cases level <;> rfl, by cases k <;> cases level <;> rfl⟩

end Sys2Proof.Laws.TableRow

namespace Sys2Proof.Laws.PortOfWord

/-- The port that accepts `i` is the port its word belongs to, and accepts the word's unit. -/
def Statement (i : Instr) : Prop :=
  portOfWord (encodeCw i) = i.port ∧ portAcceptsUnit i.port (encodeCw i) = true

theorem nop : Statement (.nop) := ⟨rfl, rfl⟩
theorem cycle : Statement (.cycle) := ⟨rfl, rfl⟩
theorem ustep : Statement (.ustep) := ⟨rfl, rfl⟩
theorem adcStart (force : Bool) : Statement (.adcStart force) := by
  cases force <;> exact ⟨rfl, rfl⟩
theorem adcRead (c : AdcChannel) : Statement (.adcRead c) := by
  cases c <;> exact ⟨rfl, rfl⟩
theorem capStart (ch : Channel) : Statement (.capStart ch) := by
  cases ch <;> exact ⟨rfl, rfl⟩
theorem capStop (ch : Channel) : Statement (.capStop ch) := by
  cases ch <;> exact ⟨rfl, rfl⟩
theorem capRead (ch : Channel) : Statement (.capRead ch) := by
  cases ch <;> exact ⟨rfl, rfl⟩
theorem ldband (c : AdcChannel) : Statement (.ldband c) := by
  cases c <;> exact ⟨rfl, rfl⟩
theorem lockStep (k : Channel) (x : Word) : Statement (.lockStep k x) := by
  cases k
  · exact (⟨rfl, rfl⟩ : portOfWord (encodeCw (.lockStep .ch0 0)) = .command ∧ portAcceptsUnit .command (encodeCw (.lockStep .ch0 0)) = true)
  · exact (⟨rfl, rfl⟩ : portOfWord (encodeCw (.lockStep .ch1 0)) = .command ∧ portAcceptsUnit .command (encodeCw (.lockStep .ch1 0)) = true)
theorem dcdStep (k : Channel) (level : Bool) : Statement (.dcdStep k level) := by
  cases k <;> cases level <;> exact ⟨rfl, rfl⟩
theorem cond (k : Channel) : Statement (.cond k) := by
  cases k <;> exact ⟨rfl, rfl⟩
theorem plim (k : Channel) : Statement (.plim k) := by
  cases k <;> exact ⟨rfl, rfl⟩
theorem outg (k : Channel) : Statement (.outg k) := by
  cases k <;> exact ⟨rfl, rfl⟩
theorem chan (k : Channel) : Statement (.chan k) := by
  cases k <;> exact ⟨rfl, rfl⟩
theorem ewInit (k : Channel) (enabled : Bool) (initial length : Word) : Statement (.ewInit k enabled initial length) := by
  cases k <;> cases enabled
  · exact (⟨rfl, rfl⟩ : portOfWord (encodeCw (.ewInit .ch0 false 0 0)) = .command ∧ portAcceptsUnit .command (encodeCw (.ewInit .ch0 false 0 0)) = true)
  · exact (⟨rfl, rfl⟩ : portOfWord (encodeCw (.ewInit .ch0 true 0 0)) = .command ∧ portAcceptsUnit .command (encodeCw (.ewInit .ch0 true 0 0)) = true)
  · exact (⟨rfl, rfl⟩ : portOfWord (encodeCw (.ewInit .ch1 false 0 0)) = .command ∧ portAcceptsUnit .command (encodeCw (.ewInit .ch1 false 0 0)) = true)
  · exact (⟨rfl, rfl⟩ : portOfWord (encodeCw (.ewInit .ch1 true 0 0)) = .command ∧ portAcceptsUnit .command (encodeCw (.ewInit .ch1 true 0 0)) = true)
theorem ewReset (k : Channel) (value : Word) : Statement (.ewReset k value) := by
  cases k
  · exact (⟨rfl, rfl⟩ : portOfWord (encodeCw (.ewReset .ch0 0)) = .command ∧ portAcceptsUnit .command (encodeCw (.ewReset .ch0 0)) = true)
  · exact (⟨rfl, rfl⟩ : portOfWord (encodeCw (.ewReset .ch1 0)) = .command ∧ portAcceptsUnit .command (encodeCw (.ewReset .ch1 0)) = true)
theorem ewUpdate (k : Channel) (enabled : Bool) (sample deadBand maxError : Word) : Statement (.ewUpdate k enabled sample deadBand maxError) := by
  cases k <;> cases enabled
  · exact (⟨rfl, rfl⟩ : portOfWord (encodeCw (.ewUpdate .ch0 false 0 0 0)) = .command ∧ portAcceptsUnit .command (encodeCw (.ewUpdate .ch0 false 0 0 0)) = true)
  · exact (⟨rfl, rfl⟩ : portOfWord (encodeCw (.ewUpdate .ch0 true 0 0 0)) = .command ∧ portAcceptsUnit .command (encodeCw (.ewUpdate .ch0 true 0 0 0)) = true)
  · exact (⟨rfl, rfl⟩ : portOfWord (encodeCw (.ewUpdate .ch1 false 0 0 0)) = .command ∧ portAcceptsUnit .command (encodeCw (.ewUpdate .ch1 false 0 0 0)) = true)
  · exact (⟨rfl, rfl⟩ : portOfWord (encodeCw (.ewUpdate .ch1 true 0 0 0)) = .command ∧ portAcceptsUnit .command (encodeCw (.ewUpdate .ch1 true 0 0 0)) = true)
theorem evAdc (raw : Word) : Statement (.evAdc raw) := by
  exact (⟨rfl, rfl⟩ : portOfWord (encodeCw (.evAdc 0)) = .event ∧ portAcceptsUnit .event (encodeCw (.evAdc 0)) = true)
theorem evRise (ch : Channel) (time : Word) : Statement (.evRise ch time) := by
  cases ch
  · exact (⟨rfl, rfl⟩ : portOfWord (encodeCw (.evRise .ch0 0)) = .event ∧ portAcceptsUnit .event (encodeCw (.evRise .ch0 0)) = true)
  · exact (⟨rfl, rfl⟩ : portOfWord (encodeCw (.evRise .ch1 0)) = .event ∧ portAcceptsUnit .event (encodeCw (.evRise .ch1 0)) = true)
theorem evFall (ch : Channel) (time : Word) : Statement (.evFall ch time) := by
  cases ch
  · exact (⟨rfl, rfl⟩ : portOfWord (encodeCw (.evFall .ch0 0)) = .event ∧ portAcceptsUnit .event (encodeCw (.evFall .ch0 0)) = true)
  · exact (⟨rfl, rfl⟩ : portOfWord (encodeCw (.evFall .ch1 0)) = .event ∧ portAcceptsUnit .event (encodeCw (.evFall .ch1 0)) = true)
theorem evPin (k : Channel) (level : Bool) : Statement (.evPin k level) := by
  cases k <;> cases level <;> exact ⟨rfl, rfl⟩

end Sys2Proof.Laws.PortOfWord
end

