-- ==== Sys2Proof/Tests/Slice0.lean ====
section
/-! SUPPORT. Tests. Expected values come from the spec: words from the table of R96 and from
`95_test_vectors.md` section 2.1, results from its vectors A, C, D, F, L, P-, O and its examples S1 to S9 (the
number stands in each test's comment). Operations that consult CFG are tested at REF through the function
their meaning calls. The last part shows, for every statement with hypotheses, states and operands that meet
them. -/

namespace Sys2Proof.Tests

open Sys2Proof.Machine Sys2Proof.Safety

/-! ### Decoding: one word per constructor (R96; vector table 2.1) -/

theorem test_decode_nop : decode ⟨0x0000, 0, 0, 0⟩ = .ok .nop := rfl
theorem test_decode_cycle : decode ⟨0x0100, 0, 0, 0⟩ = .ok .cycle := rfl
theorem test_decode_ustep : decode ⟨0x0200, 0, 0, 0⟩ = .ok .ustep := rfl
theorem test_decode_adcStart : decode ⟨0x1000, 0, 0, 0⟩ = .ok (.adcStart false) := rfl
theorem test_decode_adcStart_force : decode ⟨0x1001, 0, 0, 0⟩ = .ok (.adcStart true) := rfl
theorem test_decode_adcRead : decode ⟨0x1108, 0, 0, 0⟩ = .ok (.adcRead .powerLimit) := rfl
theorem test_decode_capStart : decode ⟨0x2004, 0, 0, 0⟩ = .ok (.capStart .ch1) := rfl
theorem test_decode_capStop : decode ⟨0x2104, 0, 0, 0⟩ = .ok (.capStop .ch1) := rfl
theorem test_decode_capRead : decode ⟨0x2204, 0, 0, 0⟩ = .ok (.capRead .ch1) := rfl
theorem test_decode_ldband : decode ⟨0x3008, 0, 0, 0⟩ = .ok (.ldband .powerLimit) := rfl
theorem test_decode_lockStep : decode ⟨0x3104, 0xFFFF, 0, 0⟩ = .ok (.lockStep .ch1 0xFFFF) := rfl
theorem test_decode_dcdStep : decode ⟨0x3205, 0, 0, 0⟩ = .ok (.dcdStep .ch1 true) := rfl
theorem test_decode_cond : decode ⟨0x3304, 0, 0, 0⟩ = .ok (.cond .ch1) := rfl
theorem test_decode_plim : decode ⟨0x3404, 0, 0, 0⟩ = .ok (.plim .ch1) := rfl
theorem test_decode_outg : decode ⟨0x3500, 0, 0, 0⟩ = .ok (.outg .ch0) := rfl
theorem test_decode_chan : decode ⟨0x3604, 0, 0, 0⟩ = .ok (.chan .ch1) := rfl
theorem test_decode_ewInit : decode ⟨0x4001, 7, 4, 0⟩ = .ok (.ewInit .ch0 true 7 4) := rfl
theorem test_decode_ewReset : decode ⟨0x4104, 0xFF9C, 0, 0⟩ = .ok (.ewReset .ch1 0xFF9C) := rfl
theorem test_decode_ewUpdate : decode ⟨0x4205, 500, 10, 100⟩ = .ok (.ewUpdate .ch1 true 500 10 100) := rfl
theorem test_decode_evAdc : decode ⟨0xE000, 0xFC05, 0, 0⟩ = .ok (.evAdc 0xFC05) := rfl
theorem test_decode_evRise : decode ⟨0xE104, 65000, 0, 0⟩ = .ok (.evRise .ch1 65000) := rfl
theorem test_decode_evFall : decode ⟨0xE200, 100, 0, 0⟩ = .ok (.evFall .ch0 100) := rfl
theorem test_decode_evPin : decode ⟨0xE305, 0, 0, 0⟩ = .ok (.evPin .ch1 true) := rfl

/-- R92: an operation ignores the operand words it does not list. -/
theorem test_decode_ignores_unused_operands : decode ⟨0x1000, 7, 8, 9⟩ = .ok (.adcStart false) := rfl

/-! ### Reserved words (R98, R99; vector table 2.1): the decoder names the reason -/

theorem test_reserved_z1 : decode ⟨0x1010, 0, 0, 0⟩ = .error .reservedZ1 := rfl
theorem test_reserved_z0 : decode ⟨0x1002, 0, 0, 0⟩ = .error .reservedZ0 := rfl
theorem test_reserved_unit : decode ⟨0x5000, 0, 0, 0⟩ = .error .reservedUnit := rfl
theorem test_reserved_unit_f : decode ⟨0xF000, 0, 0, 0⟩ = .error .reservedUnit := rfl
theorem test_reserved_func : decode ⟨0x0300, 0, 0, 0⟩ = .error .reservedFunc := rfl
theorem test_reserved_sel_adc : decode ⟨0x110C, 0, 0, 0⟩ = .error .illegalSelector := rfl
theorem test_reserved_sel_cap : decode ⟨0x2008, 0, 0, 0⟩ = .error .illegalSelector := rfl
theorem test_reserved_sel_ldband : decode ⟨0x300C, 0, 0, 0⟩ = .error .illegalSelector := rfl
theorem test_reserved_sel_evAdc : decode ⟨0xE004, 0, 0, 0⟩ = .error .reservedSelector := rfl
theorem test_reserved_sel_evPin : decode ⟨0xE308, 0, 0, 0⟩ = .error .illegalSelector := rfl
theorem test_reserved_flg_before_selector : decode ⟨0xE109, 0, 0, 0⟩ = .error .illegalFlag := rfl
theorem test_reserved_flg : decode ⟨0x4101, 0, 0, 0⟩ = .error .illegalFlag := rfl

/-! ### Well-formedness refuses an ill-formed term for each of its checks -/

theorem smoke_legal_word : wordLegal 0x4205 = true := by decide
theorem smoke_z1 : wordLegal 0x1010 = false := by decide
theorem smoke_z0 : wordLegal 0x1002 = false := by decide
theorem smoke_unit : wordLegal 0x5000 = false := by decide
theorem smoke_func : wordLegal 0x0300 = false := by decide
theorem smoke_selector : wordLegal 0x110C = false := by decide
theorem smoke_selector_channel : wordLegal 0x2008 = false := by decide
theorem smoke_selector_absent : wordLegal 0xE004 = false := by decide
theorem smoke_flag : wordLegal 0x4101 = false := by decide
theorem smoke_input : (Input.word .event ⟨0xE104, 65000, 0, 0⟩).wellFormed = true := by decide
theorem smoke_event_on_command_port : (Input.word .command ⟨0xE104, 65000, 0, 0⟩).wellFormed = false := by decide
theorem smoke_command_on_event_port : (Input.word .event ⟨0x1000, 0, 0, 0⟩).wellFormed = false := by decide

theorem smoke_cfg_timer : ¬ { Config.ref with timerWrap := 65535 }.Wf := fun h => absurd h.timerWrap_eq (by decide)
theorem smoke_cfg_low : ¬ { Config.ref with lockLowEnter := 21 }.Wf := fun h => absurd h.lowEnter_le_lowExit (by decide)
theorem smoke_cfg_exits : ¬ { Config.ref with lockLowExit := 980 }.Wf := fun h => absurd h.lowExit_lt_highExit (by decide)
theorem smoke_cfg_high : ¬ { Config.ref with lockHighEnter := 979 }.Wf := fun h => absurd h.highExit_le_highEnter (by decide)
theorem smoke_cfg_high_max : ¬ { Config.ref with lockHighEnter := 1001 }.Wf := fun h => absurd h.highEnter_le (by decide)
theorem smoke_cfg_n : ¬ { Config.ref with nEnter := 0 }.Wf := fun h => absurd h.nEnter_pos (by decide)
theorem smoke_cfg_m : ¬ { Config.ref with mExit := 2 }.Wf := fun h => absurd h.nEnter_lt_mExit (by decide)
theorem smoke_cfg_m_max : ¬ { Config.ref with mExit := 256 }.Wf := fun h => absurd h.mExit_le (by decide)
theorem smoke_cfg_window : ¬ { Config.ref with changeWindow := 1001 }.Wf := fun h => absurd h.changeWindow_le (by decide)
theorem smoke_cfg_gate : ¬ { Config.ref with outGate := 1001 }.Wf := fun h => absurd h.outGate_le (by decide)
theorem smoke_cfg_den : ¬ { Config.ref with tierDen := fun _ => 0 }.Wf := fun h => absurd (h.tierDen_pos 0) (by decide)
theorem smoke_cfg_num : ¬ { Config.ref with tierNum := fun _ => 1001 }.Wf := fun h => absurd (h.tierNum_le 0) (by decide)
theorem smoke_cfg_scale : ¬ { Config.ref with capScale := fun d => d.toNat }.Wf := fun h => absurd (h.capScale_le 1001) (by decide)

/-! ### A small state -/

/-- The reset values of R54 with REF's filter length and both pins low. -/
def base : State := { State.reset with
  ew := Pair.both { avg := 0, len := 4, first := true }
  pinLvl := ⟨false, false⟩ }

/-- `base` with a batch in progress. -/
def acquiring (round : BitVec 3) (chan : BitVec 2) (grid : Grid) : State :=
  { base with adc := { base.adc with inProg := true, round := round, chan := chan, grid := grid } }

/-- `base` with published averages. -/
def published (a b c : Word) : State := { base with adc := { base.adc with pub := ⟨a, b, c⟩, pubv := true } }

/-- `base` with capture channel 0 armed and a rising edge seen at `rise`. -/
def armed (rise : Word) : State :=
  { base with cap := base.cap.set .ch0 { base.cap.ch0 with rise := rise, enr := true, enf := true, seenR := true } }

/-- `base` with the filter of channel 0 holding `avg`. -/
def filtering (avg : Word) : State := { base with ew := base.ew.set .ch0 { avg := avg, len := 4, first := false } }

/-- Channel 0 External, input value and average 600, capture ready with `duty` ticks (P-18 to P-21). -/
def external (duty : Word) : State :=
  { filtering 600 with
    cc := base.cc.set .ch0 { base.cc.ch0 with band := 5, mode := .externalMode, inval := 600 }
    cap := base.cap.set .ch0 { base.cap.ch0 with done := true, duty := duty, seenR := true } }

/-! ### Orchestrator -/

-- O2: NOP while BUSY
theorem test_nop_busy : exec .nop { base with cseq := 4 } = .next { base with cseq := 4, res := 4 } := rfl
-- O2
theorem test_cycle : exec .cycle base = .next { base with cseq := 1, res := 0 } := rfl
-- O3
theorem test_capRead_busy : exec (.capRead .ch0) { base with cseq := 4 } = .next { base with cseq := 4 } := rfl
-- O5, and the example of R220
theorem test_ustep_idle : exec .ustep base = .next base := rfl
theorem test_ustep_last : exec .ustep { base with cseq := 8 } = .next
    { base with cap := base.cap.set .ch1 { base.cap.ch1 with enr := true, enf := true } } := rfl

/-! ### ADC averaging engine -/

-- A3, A15
theorem test_adcStart : exec (.adcStart false) base = .next
    { base with adc := { base.adc with inProg := true }, pulses := [.adcReq 0], res := 0 } := rfl
theorem test_adcStart_force : exec (.adcStart true) (acquiring 1 0 { Grid.zero with round0 := ⟨1, 2, 3⟩ }) = .next
    { base with adc := { base.adc with inProg := true }, pulses := [.adcReq 0], res := 0 } := rfl
-- A1, the reading of S1
theorem test_adcRead_cold : exec (.adcRead .powerLimit) base = .next base := rfl
theorem test_adcRead : exec (.adcRead .bandSelect2) (published 101 768 6) =
    .next { published 101 768 6 with res := 768 } := rfl
-- A5
theorem test_evAdc_masks : exec (.evAdc 0xFC05) (acquiring 0 0 Grid.zero) = .next
    { acquiring 0 1 { Grid.zero with round0 := ⟨5, 0, 0⟩ } with pulses := [.adcReq 1] } := rfl
-- program P1, line 17: the twelfth conversion publishes [101, 768, 6]
theorem test_evAdc_publishes : conversionComplete 8 (acquiring 3 2
      ⟨⟨100, 5, 5⟩, ⟨102, 1023, 6⟩, ⟨98, 1023, 7⟩, ⟨104, 1023, 0⟩⟩) = { base with adc :=
    { grid := ⟨⟨100, 5, 5⟩, ⟨102, 1023, 6⟩, ⟨98, 1023, 7⟩, ⟨104, 1023, 8⟩⟩, round := 4, chan := 0, inProg := false
      pub := ⟨101, 768, 6⟩, pubv := true } } := by
  rfl

/-! ### Capture engine -/

-- R141's example
theorem test_capStart : exec (.capStart .ch0) base = .next
    { base with cap := ⟨{ base.cap.ch0 with enr := true, enf := true }, base.cap.ch1⟩, res := 0 } := rfl
-- C12
theorem test_capStop : exec (.capStop .ch0) (armed 1000) = .next
    { base with cap := ⟨{ base.cap.ch0 with rise := 1000, seenR := true }, base.cap.ch1⟩, res := 0 } := rfl
-- C5: 65535 is a duty, not NOT_READY
theorem test_capRead_largest : capReadResult .ch0 (external 65535) = 0x0FFFF#17 := by decide
-- C10: a later rising edge overwrites; C2: a disabled source
theorem test_evRise_overwrites : exec (.evRise .ch0 200) (armed 100) = .next (armed 200) := rfl
theorem test_evRise_disabled : exec (.evRise .ch0 5) base = .next base := rfl
-- C7 (S3), C6
theorem test_edgeDuty_rollover : edgeDuty Config.ref 65000 100 = 636 ∧ edgeDuty Config.ref 65535 0 = 1 := by decide
-- C10
theorem test_evFall_completes : (fallingEdge Config.ref .ch0 450 (armed 200)).cap.ch0 =
    { rise := 200, fall := 450, duty := 250, done := true, enr := false, enf := false, seenR := true } := by decide

/-! ### Conditioning pipeline -/

-- P-2, P-1
theorem test_ldband : (loadBand Config.ref .bandSelect1 (published 900 400 500)).cc.ch0.band = 5 ∧
    (loadBand Config.ref .bandSelect2 (published 900 400 500)).cc.ch1.band = 2 ∧
    loadBandResult Config.ref .powerLimit (published 900 400 500) = 1 := by decide
theorem test_ldband_notReady : exec (.ldband .bandSelect1) base = .next base := rfl
-- L1 (S7), second input; L6, second input
theorem test_lock_entry : lockNext Config.ref ⟨.normal, .low, 1⟩ 10 = (⟨.lowLock, .low, 0⟩, 0) ∧
    lockNext Config.ref ⟨.normal, .low, 1⟩ 995 = (⟨.normal, .high, 1⟩, 990) := by decide
-- L3: the fifth qualifying cycle exits; 20 does not qualify
theorem test_lock_exit : lockNext Config.ref ⟨.lowLock, .low, 4⟩ 21 = (⟨.normal, .low, 0⟩, 21) ∧
    lockNext Config.ref ⟨.lowLock, .low, 4⟩ 20 = (⟨.lowLock, .low, 0⟩, 0) := by decide
-- D1 (S8), D4
theorem test_dcd_high : debounceNext ⟨true, 2⟩ true = (⟨true, 3⟩, .high) := by decide
theorem test_dcd_mismatch : debounceNext ⟨true, 1⟩ false = (⟨false, 1⟩, .pending) := by decide
-- P-6, P-19
theorem test_cond_local : (condition Config.ref .ch1
    { base with cc := base.cc.set .ch1 { base.cc.ch1 with band := 3, mode := .externalMode } }).cc.ch1 =
    { base.cc.ch1 with band := 3, inval := 750 } := by decide
theorem test_cond_external : (condition Config.ref .ch0 (external 605)).cc.ch0.inval = 601 := by decide
-- P-7, P-8
theorem test_plim_tier0 : limited Config.ref 0 600 = 400 ∧ limited Config.ref 0 999 = 666 := by decide
theorem test_plim_tier1 : limited Config.ref 1 500 = 416 ∧ limited Config.ref 3 1000 = 1000 := by decide
-- P-11, P-14
theorem test_outg_gate : outputGate Config.ref .ch0 { base with
      duty := ⟨499, 0⟩, cc := base.cc.set .ch0 { base.cc.ch0 with outval := 496 } } =
    { base with duty := ⟨499, 0⟩, cc := base.cc.set .ch0 { base.cc.ch0 with outval := 496 } } := by decide
theorem test_outg_clamps : (outputGate Config.ref .ch0 { base with
      duty := ⟨5, 0⟩, cc := base.cc.set .ch0 { base.cc.ch0 with outval := 1200 } }).pulses =
    [.dutyWr .ch0 1000] := by decide
-- program P3, line 31: captured 600, tier 1
theorem test_chan : (channelPipeline Config.ref .ch0 { external 600 with
      tier := 1, cc := (external 600).cc.set .ch0 { base.cc.ch0 with band := 5 } }).duty.ch0 = 499 := by decide
-- R176
theorem test_evPin : exec (.evPin .ch1 true) base = .next { base with pinLvl := ⟨false, true⟩ } := rfl

/-! ### EWMA filter -/

-- F17, F18
theorem test_ewInit : exec (.ewInit .ch0 false 100 1) base = .next
    { base with ew := base.ew.set .ch0 ⟨100, 1, true⟩, res := 100 } := rfl
theorem test_ewReset : exec (.ewReset .ch0 0xFF9C) base = .next
    { base with ew := base.ew.set .ch0 ⟨0xFF9C, 4, false⟩, res := 0x0FF9C#17 } := rfl
theorem test_ewUpdate_truncates : ewUpdate ⟨0xFF9C, 4, false⟩ true (-105) 10 100 = ⟨0xFF9B, 4, false⟩ := by decide
-- F4
theorem test_ewUpdate_weighted : ewUpdate ⟨560, 4, false⟩ true 565 10 100 = ⟨561, 4, false⟩ := by decide

/-! ### The table's words through the decoder and through a step -/

theorem test_table_word : decodeTableWord 64 0x006400_0A01_F44205 = some (.ewUpdate .ch1 true 500 10 100) := rfl
theorem test_table_short : decodeTableWord 16 0x4205 = some (.ewUpdate .ch1 true 0 0 0) := rfl
theorem test_fetch_command : step (State.reset.withFetchWord 16 0x0100) = .next { State.reset with cseq := 1, res := 0 } := rfl
theorem test_fetch_event : step (State.reset.withFetchWord 16 0xE301) =
    .next { State.reset with pinLvl := State.reset.pinLvl.set .ch0 true } := rfl

/-! ### Witnesses: the hypotheses of the statements are met -/

theorem witness_DecodedWordIsTheEncodedWord : decode ⟨0x4100, 0xFFFF, 1, 2⟩ = .ok (.ewReset .ch0 0xFFFF) := rfl

/-- R246: the rows of the priority table in their order, mainline below all. -/
theorem test_priority_table :
    Config.outranks (.handler .adcComplete) (.handler (.captureRise .ch0)) = true ∧
    Config.outranks (.handler (.captureFall .ch1)) (.handler .periodicTimer) = true ∧
    Config.outranks (.handler .periodicTimer) (.handler .diagnosticSerial) = true ∧
    Config.outranks (.handler .diagnosticSerial) .mainline = true ∧
    Config.outranks .mainline (.handler .diagnosticSerial) = false ∧
    Config.outranks (.handler (.captureRise .ch0)) (.handler (.captureFall .ch0)) = false ∧
    Instr.ustep.context = some .mainline ∧ (Instr.evAdc 0).context = some (.handler .adcComplete) := by
  decide

/-- `base` with one word presented. -/
def presenting (p : Port) (w : OpWord) : State := { base with inputs := [.word p w] }

theorem witness_StepRunsTheDecodedOperation :
    (presenting .command ⟨0x0100, 0, 0, 0⟩).inputs = .word .command ⟨0x0100, 0, 0, 0⟩ :: [] ∧
    decode ⟨0x0100, 0, 0, 0⟩ = .ok .cycle ∧ Instr.cycle.port = .command ∧
    (presenting .event ⟨0xE000, 9, 0, 0⟩).inputs = .word .event ⟨0xE000, 9, 0, 0⟩ :: [] ∧
    decode ⟨0xE000, 9, 0, 0⟩ = .ok (.evAdc 9) ∧ (Instr.evAdc 9).port = .event := ⟨rfl, rfl, rfl, rfl, rfl, rfl⟩

theorem witness_ReservedAndMisplacedWordsDoNothing :
    (presenting .command ⟨0x5000, 0, 0, 0⟩).inputs = .word .command ⟨0x5000, 0, 0, 0⟩ :: [] ∧
    decode ⟨0x5000, 0, 0, 0⟩ = .error .reservedUnit ∧
    (presenting .event ⟨0xE308, 0, 0, 0⟩).inputs = .word .event ⟨0xE308, 0, 0, 0⟩ :: [] ∧
    decode ⟨0xE308, 0, 0, 0⟩ = .error .illegalSelector ∧ portAcceptsUnit .event 0xE308 = true ∧
    (presenting .command ⟨0xE108, 0, 0, 0⟩).inputs = .word .command ⟨0xE108, 0, 0, 0⟩ :: [] ∧
    decode ⟨0xE108, 0, 0, 0⟩ = .error .illegalSelector ∧ portAcceptsUnit .command 0xE108 = false ∧
    (presenting .event ⟨0x0100, 0, 0, 0⟩).inputs = .word .event ⟨0x0100, 0, 0, 0⟩ :: [] ∧
    decode ⟨0x0100, 0, 0, 0⟩ = .ok .cycle ∧ Instr.cycle.port ≠ .event :=
  ⟨rfl, rfl, rfl, rfl, rfl, rfl, rfl, rfl, rfl, rfl, by decide⟩

/-- R97, R99: an event word on the idle command port does nothing, its selector unchecked; RES stays. -/
theorem test_event_word_on_command_port :
    step { presenting .command ⟨0xE108, 0, 0, 0⟩ with res := 7 } =
      .next { presenting .command ⟨0xE108, 0, 0, 0⟩ with res := 7, inputs := [] } := rfl

/-- R98: an illegal selector on the port that accepts the word returns NOT_READY. -/
theorem test_illegal_selector_on_command_port :
    step { presenting .command ⟨0x110C, 0, 0, 0⟩ with res := 7 } =
      .next { presenting .command ⟨0x110C, 0, 0, 0⟩ with res := 0x1FFFF, inputs := [] } := rfl

theorem witness_NothingPresentedRunsTheSequencer :
    base.inputs = [] ∧ base.cseq = 0 ∧ { base with cseq := 8 }.inputs = [] ∧ { base with cseq := 8 }.cseq ≠ 0 := by
  decide

theorem witness_ResetStateIsTheTable :
    { base with cseq := 4, inputs := [.rst, .word .event ⟨0xE000, 9, 0, 0⟩] }.inputs =
      .rst :: [.word .event ⟨0xE000, 9, 0, 0⟩] := by decide

theorem witness_ResetInputRestoresTheTable : { base with inputs := [.rst] }.inputs = .rst :: [] := rfl

theorem witness_UstepPerformsTheMicroStep : base.cseq = 0 ∧
    Statements.controlCycle { base with cseq := 1 }.cseq.toNat = some (.ldband .bandSelect1) ∧
    Statements.controlCycle { base with cseq := 8 }.cseq.toNat = some (.capStart .ch1) := ⟨rfl, rfl, rfl⟩

theorem witness_CommandsWhileBusyAreDropped :
    { presenting .command ⟨0x0100, 0, 0, 0⟩ with cseq := 1 }.cseq ≠ 0 ∧
    decode ⟨0x0100, 0, 0, 0⟩ = .ok .cycle ∧ Instr.cycle ≠ .nop ∧ Instr.cycle ≠ .ustep ∧
    { presenting .command ⟨0x5000, 0, 0, 0⟩ with cseq := 8 }.cseq ≠ 0 ∧
    decode ⟨0x5000, 0, 0, 0⟩ = .error .reservedUnit ∧ (Instr.evFall .ch0 5).port = .event :=
  ⟨by decide, rfl, by decide, by decide, by decide, rfl, rfl⟩

/-- R123's three cases: no batch, the last sample of a batch, and samples before it with and without a wrap. -/
theorem witness_ConversionStoresOrPublishes :
    base.adc.inProg = false ∧
    (acquiring 3 2 Grid.zero).adc.inProg = true ∧ (acquiring 3 2 Grid.zero).adc.round.toNat < 4 ∧
    (acquiring 3 2 Grid.zero).adc.chan.toNat < 3 ∧
    (acquiring 0 0 Grid.zero).adc.inProg = true ∧ (acquiring 0 0 Grid.zero).adc.round.toNat < 4 ∧
    (acquiring 0 0 Grid.zero).adc.chan.toNat < 3 ∧
    (acquiring 2 2 Grid.zero).adc.round.toNat < 4 ∧ (acquiring 2 2 Grid.zero).adc.chan.toNat < 3 := by
  decide

/-- Four rounds of full-scale samples (A11). -/
def fullGrid : Grid := ⟨Trio.all 1023, Trio.all 1023, Trio.all 1023, Trio.all 1023⟩

theorem witness_MeanIsTheTruncatedQuarterOfTheSum : GridWf fullGrid := by
  intro r c
  rcases r with _ | _ | _ | _ | r <;> rcases c with _ | _ | _ | c <;>
    first | decide | exact (by decide : (0 : Nat) < 1024)

theorem witness_TwelveConversionsPublishTheMeans :
    base.cseq = 0 ∧ base.adc.inProg = false ∧ (12 : Nat) ≤ 12 ∧ (0 : Nat) ≤ 12 ∧
    (acquiring 1 2 Grid.zero).cseq = 0 ∧ (acquiring 1 2 Grid.zero).adc.inProg = true := by decide

/-- An ADC unit with a full-scale batch completed and published. -/
def completedAdc : AdcUnit :=
  { grid := fullGrid, round := 4, chan := 0, inProg := false, pub := Trio.all 1023, pubv := true }

theorem adcInv_completed : AdcInv completedAdc where
  grid := witness_MeanIsTheTruncatedQuarterOfTheSum
  pub c := by cases c <;> decide
  running h := by simp [completedAdc] at h
  stopped _ := by decide
  pending h := by simp [completedAdc] at h
  published _ _ := by decide

theorem adcInv_acquiring : AdcInv (acquiring 3 2 Grid.zero).adc where
  grid r c := by rw [show (acquiring 3 2 Grid.zero).adc.grid = Grid.zero from rfl, Grid.read_zero]; decide
  pub c := by cases c <;> decide
  running _ := by decide
  stopped h := by simp [acquiring] at h
  pending _ r c _ := Grid.read_zero r c
  published h := by simp [acquiring] at h

/-- A state whose ADC unit and capture records meet their invariants, with nothing else running, meets the whole
invariant. -/
theorem inv_of {a : AdcUnit} (ha : AdcInv a) {r : CapRecord} (hr : CapInv r) (l : List Input) :
    Inv { base with adc := a, cap := Pair.both r, inputs := l } where
  adc := ha
  cap ch := by cases ch <;> exact hr
  lock k := by cases k <;> exact CFG_wf.nEnter_pos
  debounce k := by cases k <;> exact Nat.zero_le _
  timeout k := by cases k <;> exact Nat.zero_le _
  duty k := by cases k <;> exact Nat.zero_le _
  cseq := Nat.zero_le _
  res := .inl rfl

/-- A completed capture record of 636 ticks (C7). -/
def completedCap : CapRecord :=
  { rise := 65000, fall := 100, duty := 636, done := true, enr := false, enf := false, seenR := true }

theorem capInv_completed : CapInv completedCap := ⟨by decide, by decide, by decide, by decide⟩

theorem witness_AdcReadNeverShowsAnUnfinishedBatch :
    (∃ s, Inv s ∧ s.cseq = 0 ∧ s.adc.inProg = true) ∧
    ∃ s, Inv s ∧ s.cseq = 0 ∧ s.adc.inProg = false ∧ s.adc.pubv = true :=
  ⟨⟨_, inv_of adcInv_acquiring capInv_completed [], rfl, rfl⟩,
    ⟨_, inv_of adcInv_completed capInv_completed [], rfl, rfl, rfl⟩⟩

theorem witness_EdgeOrderAfterOneStart : base.cseq = 0 := rfl

theorem witness_CaptureNotReadyContract_unready : base.cseq = 0 ∧ (base.cap.get .ch0).done = false := by decide

theorem witness_CaptureNotReadyContract_completion :
    ∃ t, exec (.evFall .ch0 450) (armed 200) = .next t ∧ ((armed 200).cap.get .ch0).done = false ∧
      (t.cap.get .ch0).done = true := ⟨_, rfl, rfl, rfl⟩

theorem witness_CaptureNotReadyContract_hold :
    ∃ s, Inv s ∧ (s.cap.get .ch0).done = true ∧
      ∀ i ∈ [Instr.evFall .ch0 8, .capStop .ch0, .capRead .ch0, .capStart .ch1], i ≠ .capStart .ch0 ∧ i ≠ .ustep :=
  ⟨_, inv_of adcInv_completed capInv_completed [], rfl, by decide⟩

/-- `base` with the lock of channel 0 in zone `z` with counter `n`. -/
def locking (z : Zone) (n : Nat) : State := { base with lk := base.lk.set .ch0 ⟨z, .low, BitVec.ofNat 8 n⟩ }

/-- Counters at both ends of their range in every zone (R38). -/
theorem witness_LockStepFollowsTheHysteresis :
    (locking .normal 0).cseq = 0 ∧ LockInv ((locking .normal 0).lk.get .ch0) ∧
    LockInv ((locking .normal (CFG.nEnter - 1)).lk.get .ch0) ∧
    LockInv ((locking .lowLock 0).lk.get .ch0) ∧ LockInv ((locking .lowLock (CFG.mExit - 1)).lk.get .ch0) ∧
    LockInv ((locking .highLock 0).lk.get .ch0) ∧ LockInv ((locking .highLock (CFG.mExit - 1)).lk.get .ch0) := by
  have h1 := CFG_wf.nEnter_pos
  have h2 := CFG_wf.nEnter_lt_mExit
  refine ⟨rfl, ?_, ?_, ?_, ?_, ?_, ?_⟩ <;> simp only [LockInv, locking, Pair.get, Pair.set, BitVec.toNat_ofNat] <;>
    exact lt_of_le_of_lt (Nat.mod_le _ _) (by omega)

theorem witness_LockHoldsForFewerThanExitCycles :
    (locking .lowLock 0).cseq = 0 ∧ ((locking .lowLock 0).lk.get .ch0).zone ≠ .normal ∧
    ((locking .lowLock 0).lk.get .ch0).cnt.toNat + (List.replicate (CFG.mExit - 1) (500 : Word)).length < CFG.mExit ∧
    ((locking .highLock 0).lk.get .ch0).zone ≠ .normal ∧
    ((locking .highLock 0).lk.get .ch0).cnt.toNat + ([500] : List Word).length < CFG.mExit := by
  have h1 := CFG_wf.nEnter_pos
  have h2 := CFG_wf.nEnter_lt_mExit
  refine ⟨rfl, by decide, ?_, by decide, ?_⟩ <;> simp [locking, Pair.get, Pair.set] <;> omega

theorem witness_LockCommitsAfterEnterCycles :
    (locking .normal 0).cseq = 0 ∧ ((locking .normal 0).lk.get .ch0).zone = .normal ∧
    ((locking .normal 0).lk.get .ch0).cnt = 0 ∧
    (∀ x ∈ List.replicate CFG.nEnter (0 : Word), x.toInt ≤ CFG.lockLowEnter) ∧
    (List.replicate CFG.nEnter (0 : Word)).length ≤ CFG.nEnter ∧
    (∀ x ∈ List.replicate CFG.nEnter (1000 : Word), (CFG.lockHighEnter : Int) ≤ x.toInt) ∧
    ((List.replicate (CFG.nEnter - 1) (1000 : Word)).length ≤ CFG.nEnter) := by
  have h : CFG.lockHighEnter ≤ 1000 := CFG_wf.highEnter_le
  refine ⟨rfl, rfl, rfl, fun x hx => ?_, by simp, fun x hx => ?_, by simp⟩
  · rw [List.eq_of_mem_replicate hx, show (0 : Word).toInt = 0 from rfl]; omega
  · rw [List.eq_of_mem_replicate hx, show (1000 : Word).toInt = 1000 from rfl]; omega

theorem witness_DebounceNeedsThreeEqualSamples : base.cseq = 0 := rfl

theorem witness_CondLocalMapsTheBand : (base.cc.get .ch0).band ≠ 5 ∧
    ({ base with cc := base.cc.set .ch0 { base.cc.ch0 with band := 4 } }.cc.get .ch0).band ≠ 5 := by decide

theorem witness_CondExternalFollowsThePipeline :
    (external 605).cseq = 0 ∧ ((external 605).cc.get .ch0).band = 5 := by decide

theorem witness_ModeSwitchHasNoSmoothingLag :
    { external 300 with cc := base.cc.set .ch0 { base.cc.ch0 with band := 5, inval := 750 } }.cseq = 0 ∧
    ({ external 300 with cc := base.cc.set .ch0 { base.cc.ch0 with band := 5, inval := 750 } }.cc.get .ch0).band = 5 ∧
    ({ external 300 with cc := base.cc.set .ch0 { base.cc.ch0 with band := 5, inval := 750 } }.cc.get .ch0).mode =
      .localMode := by decide

theorem witness_ChanIsCondPlimOutg : base.cseq = 0 := rfl

theorem inDuty_ends : InDuty 0 ∧ InDuty 1000 := by unfold InDuty; decide

theorem witness_EwUpdateStaysBetweenAverageAndSample :
    (filtering 1000).cseq = 0 ∧ InDuty ((filtering 1000).ew.get .ch0).avg ∧ InDuty 0 :=
  ⟨rfl, inDuty_ends.2, inDuty_ends.1⟩

-- S5
theorem witness_LargeStepIsNeverFollowed :
    (filtering 500).cseq = 0 ∧ ((filtering 500).ew.get .ch0).first = false ∧
    (100 : Word).toInt < |(700 : Word).toInt - ((filtering 500).ew.get .ch0).avg.toInt| := by decide

theorem witness_EventsOfDifferentGroupsCommute :
    Statements.eventGroup (.evAdc 7) = some 0 ∧ Statements.eventGroup (.evRise .ch0 7) = some 1 ∧
    Statements.eventGroup (.evFall .ch1 7) = some 2 ∧ Statements.eventGroup (.evPin .ch1 true) = some 3 := by decide

theorem witness_OnlyCommandsWriteTheResult :
    (Instr.evAdc 7).port = .event ∧ (Instr.capRead .ch0).port = .command ∧ Instr.capRead .ch0 ≠ .ustep ∧
    base.cseq = 0 := by decide

theorem witness_OperationsWriteOnlyTheirRow :
    Instr.nop ≠ .ustep ∧ (∀ f, Instr.nop ≠ .adcStart f) ∧ Instr.nop ≠ .capStart .ch0 ∧ Instr.nop ≠ .cond .ch0 := by
  decide

theorem witness_IdempotentCommandsRepeatWithoutEffect :
    (∃ c, Instr.adcRead .bandSelect1 = .adcRead c) ∧ (∃ k v, Instr.ewReset .ch1 5 = .ewReset k v) ∧ base.cseq = 0 :=
  ⟨⟨_, rfl⟩, ⟨_, _, rfl⟩, rfl⟩

theorem witness_StepKeepsTheStateInvariant : ∃ s t, Inv s ∧ step s = .next t :=
  ⟨_, _, inv_of adcInv_acquiring capInv_completed [.word .event ⟨0xE000, 1023, 0, 0⟩], rfl⟩

theorem witness_StepKeepsValuesInTheDutyRange : ∃ s t, ValuesInRange s ∧
    nextActivity s = .run (.ewReset .ch0 1000) ∧ FilterOperandInRange (.ewReset .ch0 1000) ∧ step s = .next t := by
  refine ⟨presenting .command ⟨0x4100, 1000, 0, 0⟩, _, ⟨?_, ?_, ?_⟩, rfl, inDuty_ends.2, rfl⟩ <;> intro k <;>
    cases k <;> exact inDuty_ends.1

end Sys2Proof.Tests
end

section
/-! ### What an operation changes, and what it returns

Every operation is a change of the state that leaves RES alone, and a command other than USTEP then writes the word it
returns to RES (R49, R94). -/
namespace Sys2Proof.Machine

open Sys2Proof.Safety

/-- The state changes of an operation that is performed, without RES. -/
def effectOf (i : Instr) (s : State) : State :=
  match i with
  | .nop | .adcRead _ | .capRead _ => s
  | .cycle => setCseq s 1
  | .ustep => sequencerStep CFG s
  | .adcStart force => adcStart force s
  | .capStart ch => capStart ch s
  | .capStop ch => capStop ch s
  | .ldband c => loadBand CFG c s
  | .lockStep k x => setLk s k (lockNext CFG (s.lk.get k) (s16 x)).1
  | .dcdStep k level => setDc s k (debounceNext (s.dc.get k) level).1
  | .cond k => condition CFG k s
  | .plim k => powerLimit CFG k s
  | .outg k => outputGate CFG k s
  | .chan k => channelPipeline CFG k s
  | .ewInit k _ initial length => setEw s k (ewInit initial length)
  | .ewReset k value => setEw s k (ewReset (s.ew.get k) (s16 value))
  | .ewUpdate k enabled sample deadBand maxError =>
    setEw s k (ewUpdate (s.ew.get k) enabled (s16 sample) (s16 deadBand) (s16 maxError))
  | .evAdc raw => conversionComplete raw s
  | .evRise ch time => risingEdge ch time s
  | .evFall ch time => fallingEdge CFG ch time s
  | .evPin k level => setPin s k level

/-- The result word of an operation that is performed; an event or a micro-step returns nothing and RES keeps its
value. -/
def resultOf (i : Instr) (s : State) : ResultWord :=
  match i with
  | .nop => ready (s.cseq.toNat : Int)
  | .cycle | .adcStart _ | .capStart _ | .capStop _ => ready 0
  | .adcRead c => adcReadResult c s
  | .capRead ch => capReadResult ch s
  | .ldband c => loadBandResult CFG c s
  | .lockStep k x => ready (lockNext CFG (s.lk.get k) (s16 x)).2
  | .dcdStep k level => ready (dcCode (debounceNext (s.dc.get k) level).2)
  | .cond k => readyWord ((condition CFG k s).cc.get k).inval
  | .plim k => readyWord ((powerLimit CFG k s).cc.get k).outval
  | .outg k => readyWord ((outputGate CFG k s).duty.get k)
  | .chan k => readyWord ((channelPipeline CFG k s).duty.get k)
  | .ewInit _ _ initial _ => readyWord initial
  | .ewReset k value => readyWord (ewReset (s.ew.get k) (s16 value)).avg
  | .ewUpdate k enabled sample deadBand maxError =>
    readyWord (ewUpdate (s.ew.get k) enabled (s16 sample) (s16 deadBand) (s16 maxError)).avg
  | .ustep | .evAdc _ | .evRise _ _ | .evFall _ _ | .evPin _ _ => s.res

/-- An event or a micro-step is performed in every state and writes no result (R218, R220, R248). -/
theorem exec_event_or_ustep {i : Instr} (h : i.port = .event ∨ i = .ustep) (s : State) :
    exec i s = .next (effectOf i s) := by
  cases i with
  | ustep | evAdc _ | evRise _ _ | evFall _ _ | evPin _ _ => rfl
  | _ => rcases h with h | h <;> cases h

/-- A command on an idle block is performed and writes its result (R49, R94). -/
theorem exec_command_idle {i : Instr} (hp : i.port = .command) (hu : i ≠ .ustep) {s : State} (hs : s.cseq = 0) :
    exec i s = .next (setRes (effectOf i s) (resultOf i s)) := by
  cases i with
  | nop => rfl
  | ustep => exact absurd rfl hu
  | evAdc _ | evRise _ _ | evFall _ _ | evPin _ _ => cases hp
  | _ => exact congrArg Host.Outcome.next (acceptCommand_idle hs _)

/-- A command other than NOP is dropped while a control cycle runs (R218). -/
theorem exec_command_busy {i : Instr} (hp : i.port = .command) (hu : i ≠ .ustep) (hn : i ≠ .nop) {s : State}
    (hs : s.cseq ≠ 0) : exec i s = .next s := by
  cases i with
  | nop => exact absurd rfl hn
  | ustep => exact absurd rfl hu
  | evAdc _ | evRise _ _ | evFall _ _ | evPin _ _ => cases hp
  | _ => exact congrArg Host.Outcome.next (acceptCommand_busy hs _)

/-- What an operation can do: a command is dropped or performed with its result, an event or a micro-step is
performed without one. -/
theorem exec_cases (i : Instr) (s : State) :
    exec i s = .next s ∨
    (i.port = .event ∨ i = .ustep) ∧ exec i s = .next (effectOf i s) ∨
    (i.port = .command ∧ i ≠ .ustep) ∧ exec i s = .next (setRes (effectOf i s) (resultOf i s)) := by
  by_cases he : i.port = .event ∨ i = .ustep
  · exact .inr (.inl ⟨he, exec_event_or_ustep he s⟩)
  obtain ⟨hp, hu⟩ := not_or.mp he
  replace hp : i.port = .command := by cases h : i.port <;> simp_all
  by_cases hs : s.cseq = 0
  · exact .inr (.inr ⟨⟨hp, hu⟩, exec_command_idle hp hu hs⟩)
  by_cases hn : i = .nop
  · subst hn; exact .inr (.inr ⟨⟨hp, hu⟩, rfl⟩)
  · exact .inl (exec_command_busy hp hu hn hs)

/-- A micro-step has the effect of the command the control cycle lists at its index, and none at an index where the
cycle lists no command (R219; log 10). -/
theorem microStep_eq (n : Nat) (s : State) :
    microStep CFG n s = ((Statements.controlCycle n).elim s fun i => effectOf i s) := by
  match n with
  | 0 | 1 | 2 | 3 | 4 | 5 | 6 | 7 | 8 => rfl
  | _ + 9 => rfl

/-- The control cycle does not contain its own micro-step (R219). -/
theorem controlCycle_ne_ustep {n : Nat} {i : Instr} (h : Statements.controlCycle n = some i) : i ≠ .ustep := by
  rintro rfl
  unfold Statements.controlCycle at h
  split at h <;> cases h

/-! ### No state change of an operation touches RES (R49) -/

@[simp] theorem adcStart_res (force : Bool) (s : State) : (adcStart force s).res = s.res := by
  rcases adcStart_cases force s with ⟨_, _, e⟩ | ⟨_, e⟩ <;> rw [e]
  rfl

@[simp] theorem conversionComplete_res (raw : Word) (s : State) : (conversionComplete raw s).res = s.res := by
  rcases conversionComplete_cases raw s with ⟨_, e⟩ | ⟨_, _, e⟩ | ⟨_, _, e⟩ <;> rw [e] <;> rfl

@[simp] theorem risingEdge_res (ch : Channel) (time : Word) (s : State) : (risingEdge ch time s).res = s.res := by
  unfold risingEdge
  split <;> rfl

@[simp] theorem fallingEdge_res (c : Config) (ch : Channel) (time : Word) (s : State) :
    (fallingEdge c ch time s).res = s.res := by
  unfold fallingEdge
  split <;> rfl

@[simp] theorem loadBand_res (c : Config) (ch : AdcChannel) (s : State) : (loadBand c ch s).res = s.res := by
  unfold loadBand
  split
  · cases ch <;> rfl
  · rfl

@[simp] theorem condition_res (c : Config) (k : Channel) (s : State) : (condition c k s).res = s.res := by
  unfold condition
  split <;> rfl

@[simp] theorem powerLimit_res (c : Config) (k : Channel) (s : State) : (powerLimit c k s).res = s.res := rfl

@[simp] theorem outputGate_res (c : Config) (k : Channel) (s : State) : (outputGate c k s).res = s.res := by
  unfold outputGate
  split <;> rfl

@[simp] theorem channelPipeline_res (c : Config) (k : Channel) (s : State) :
    (channelPipeline c k s).res = s.res := by
  simp [channelPipeline]

theorem effectOf_res_of_ne_ustep {i : Instr} (h : i ≠ .ustep) (s : State) : (effectOf i s).res = s.res := by
  cases i with
  | ustep => exact absurd rfl h
  | adcStart force => exact adcStart_res force s
  | ldband c => exact loadBand_res CFG c s
  | cond k => exact condition_res CFG k s
  | outg k => exact outputGate_res CFG k s
  | chan k => exact channelPipeline_res CFG k s
  | evAdc raw => exact conversionComplete_res raw s
  | evRise ch time => exact risingEdge_res ch time s
  | evFall ch time => exact fallingEdge_res CFG ch time s
  | _ => rfl

@[simp] theorem microStep_res (n : Nat) (s : State) : (microStep CFG n s).res = s.res := by
  rw [microStep_eq]
  cases h : Statements.controlCycle n with
  | none => rfl
  | some i => exact effectOf_res_of_ne_ustep (controlCycle_ne_ustep h) s

@[simp] theorem sequencerStep_res (s : State) : (sequencerStep CFG s).res = s.res := by
  unfold sequencerStep
  split
  · simp
  · rfl

@[simp] theorem effectOf_res (i : Instr) (s : State) : (effectOf i s).res = s.res := by
  by_cases h : i = .ustep
  · subst h; exact sequencerStep_res s
  · exact effectOf_res_of_ne_ustep h s

/-! ### The result of a command is NOT_READY or a value (R94) -/

/-- NOT_READY, or the ready word of a value. -/
def IsResult (r : ResultWord) : Prop := r = notReady ∨ ∃ v : Word, r = readyWord v

theorem isResult_notReady : IsResult notReady := .inl rfl

theorem isResult_readyWord (v : Word) : IsResult (readyWord v) := .inr ⟨v, rfl⟩

theorem isResult_ready (v : Int) : IsResult (ready v) := isResult_readyWord (u16 v)

/-- A result word meets what the state invariant asks of RES. -/
theorem IsResult.notReady_or_ready {r : ResultWord} (h : IsResult r) : r = notReady ∨ resNotReady r = false := by
  rcases h with h | ⟨v, rfl⟩
  · exact .inl h
  · exact .inr (resNotReady_readyWord v)

theorem isResult_adcReadResult (c : AdcChannel) (s : State) : IsResult (adcReadResult c s) := by
  unfold adcReadResult
  split
  · exact isResult_readyWord _
  · exact isResult_notReady

theorem isResult_capReadResult (ch : Channel) (s : State) : IsResult (capReadResult ch s) := by
  unfold capReadResult
  split
  · exact isResult_readyWord _
  · exact isResult_notReady

theorem isResult_loadBandResult (c : Config) (ch : AdcChannel) (s : State) : IsResult (loadBandResult c ch s) := by
  unfold loadBandResult
  split
  · cases ch with
    | bandSelect1 | bandSelect2 | powerLimit => exact isResult_ready _
  · exact isResult_notReady

theorem isResult_resultOf {i : Instr} (hp : i.port = .command) (hu : i ≠ .ustep) (s : State) :
    IsResult (resultOf i s) := by
  cases i with
  | ustep => exact absurd rfl hu
  | evAdc _ | evRise _ _ | evFall _ _ | evPin _ _ => cases hp
  | adcRead c => exact isResult_adcReadResult c s
  | capRead ch => exact isResult_capReadResult ch s
  | ldband c => exact isResult_loadBandResult CFG c s
  | nop | cycle | adcStart _ | capStart _ | capStop _ | lockStep _ _ | dcdStep _ _ => exact isResult_ready _
  | cond _ | plim _ | outg _ | chan _ | ewInit _ _ _ _ | ewReset _ _ | ewUpdate _ _ _ _ _ =>
    exact isResult_readyWord _

/-- Settles O53: an operation's effect leaves RES alone, and a command then writes its result there. -/
theorem onlyCommandsWriteTheResult : Obligations.OnlyCommandsWriteTheResult := by
  refine ⟨fun i s h => ⟨effectOf i s, exec_event_or_ustep h s, effectOf_res i s⟩, fun i s hp hu hs => ?_⟩
  exact ⟨_, exec_command_idle hp hu hs, isResult_resultOf hp hu s⟩

end Sys2Proof.Machine
end

section
/-! ### The reset state (R54) and the reset input (R270) -/
namespace Sys2Proof.Machine

open Sys2Proof.Safety

@[simp] theorem reset_cap_get (ch : Channel) :
    State.reset.cap.get ch = ⟨0, 0, 0, false, false, false, false⟩ := Pair.get_both _ ch

@[simp] theorem reset_ew_get (k : Channel) : State.reset.ew.get k = ⟨0, CFG.ewmaLen, true⟩ := Pair.get_both _ k

@[simp] theorem reset_lk_get (k : Channel) : State.reset.lk.get k = ⟨.normal, .low, 0⟩ := Pair.get_both _ k

@[simp] theorem reset_dc_get (k : Channel) : State.reset.dc.get k = ⟨false, 0⟩ := Pair.get_both _ k

@[simp] theorem reset_cc_get (k : Channel) : State.reset.cc.get k = ⟨0, 0, 7, .localMode, 0⟩ := Pair.get_both _ k

@[simp] theorem reset_duty_get (k : Channel) : State.reset.duty.get k = 0 := Pair.get_both _ k

@[simp] theorem reset_pub_get (c : AdcChannel) : State.reset.adc.pub.get c = 0 := Trio.get_all _ c

/-- `RST` at the head of the trace is consumed, and the state reset (R270). -/
theorem step_rst {s : State} {rest : List Input} (h : s.inputs = .rst :: rest) :
    step s = .next { State.reset with inputs := rest, pinLvl := s.pinLvl, pulses := s.pulses } := by
  simp [step, nextActivity, h, applyReset, taken, setInputs]

/-- Settles O11: the reset state field by field, and `step_rst`. -/
theorem resetStateIsTheTable : Obligations.ResetStateIsTheTable :=
  ⟨Grid.read_zero, rfl, rfl, rfl, reset_pub_get, rfl, reset_cap_get, reset_ew_get, reset_lk_get, reset_dc_get,
    reset_cc_get, rfl, reset_duty_get, rfl, rfl, fun _ _ h => ⟨_, step_rst h, rfl⟩⟩

theorem adcInv_reset : AdcInv State.reset.adc where
  grid := gridWf_zero
  pub c := by simp
  running h := by cases h
  stopped _ := ⟨rfl, .inl rfl⟩
  pending h := by cases h
  published _ h := by cases h

theorem inv_reset : Inv State.reset where
  adc := adcInv_reset
  cap ch := by
    rw [reset_cap_get]
    exact ⟨rfl, nofun, nofun, nofun⟩
  lock k := by
    rw [reset_lk_get]
    exact CFG_wf.nEnter_pos
  debounce k := by simp
  timeout k := by simp
  duty k := by simp
  cseq := Nat.zero_le 8
  res := .inl rfl

/-- Settles O57: the table of R54 meets each clause of the invariant. -/
theorem resetMeetsTheStateInvariant : Obligations.ResetMeetsTheStateInvariant := inv_reset

theorem inDuty_zero : InDuty 0 := by
  unfold InDuty
  decide

/-- Settles O59: every value is 0 at reset. -/
theorem resetValuesAreInTheDutyRange : Obligations.ResetValuesAreInTheDutyRange where
  avg k := by rw [reset_ew_get]; exact inDuty_zero
  inval k := by rw [reset_cc_get]; exact inDuty_zero
  outval k := by rw [reset_cc_get]; exact inDuty_zero

end Sys2Proof.Machine
end

section
/-! ### The state invariant over every step

First one rule per write of a state element: what the written value must satisfy for the invariant to survive. Then
each operation's effect is a composition of such writes. -/
namespace Sys2Proof.Machine

open Sys2Proof.Safety

variable {s : State}

theorem inv_setAdc (h : Inv s) {a : AdcUnit} (ha : AdcInv a) : Inv (setAdc s a) := { h with adc := ha }

theorem inv_setCap (h : Inv s) (ch : Channel) {r : CapRecord} (hr : CapInv r) : Inv (setCap s ch r) :=
  { h with cap := Pair.forall_set h.cap hr }

theorem inv_setEw (h : Inv s) (k : Channel) (e : EwRecord) : Inv (setEw s k e) := { h with }

theorem inv_setLk (h : Inv s) (k : Channel) {l : LockRecord} (hl : LockInv l) : Inv (setLk s k l) :=
  { h with lock := Pair.forall_set h.lock hl }

theorem inv_setDc (h : Inv s) (k : Channel) {d : DebounceRecord} (hd : d.cnt.toNat ≤ dcConsist) :
    Inv (setDc s k d) :=
  { h with debounce := Pair.forall_set (P := fun d : DebounceRecord => d.cnt.toNat ≤ dcConsist) h.debounce hd }

theorem inv_setCc (h : Inv s) (k : Channel) {r : ControlRecord} (hr : r.tmo.toNat ≤ tmoMax) : Inv (setCc s k r) :=
  { h with timeout := Pair.forall_set (P := fun r : ControlRecord => r.tmo.toNat ≤ tmoMax) h.timeout hr }

theorem inv_setTier (h : Inv s) (t : BitVec 2) : Inv (setTier s t) := { h with }

theorem inv_setDuty (h : Inv s) (k : Channel) {v : Word} (hv : v.toNat ≤ dutyMax) : Inv (setDuty s k v) :=
  { h with duty := Pair.forall_set (P := fun v : Word => v.toNat ≤ dutyMax) h.duty hv }

theorem inv_setPin (h : Inv s) (k : Channel) (b : Bool) : Inv (setPin s k b) := { h with }

theorem inv_setCseq (h : Inv s) {n : BitVec 4} (hn : n.toNat ≤ 8) : Inv (setCseq s n) := { h with cseq := hn }

theorem inv_setRes (h : Inv s) {r : ResultWord} (hr : IsResult r) : Inv (setRes s r) :=
  { h with res := hr.notReady_or_ready }

theorem inv_setInputs (h : Inv s) (l : List Input) : Inv (setInputs s l) := { h with }

theorem inv_emit (h : Inv s) (p : Pulse) : Inv (emit s p) := { h with }

/-! #### ADC averaging engine -/

/-- A restarted batch has every cell still 0 and the indices at their start (R121). -/
theorem adcInv_restart {a : AdcUnit} (h : AdcInv a) :
    AdcInv { a with round := 0, chan := 0, grid := Grid.zero, inProg := true } where
  grid := gridWf_zero
  pub := h.pub
  running _ := ⟨Nat.zero_lt_succ 3, Nat.zero_lt_succ 2⟩
  stopped h' := by cases h'
  pending _ r c _ := Grid.read_zero r c
  published h' := by cases h'

/-- The twelfth sample closes the batch: the indices rest at (4, 0) and the means of the grid are published (R123). -/
theorem adcInv_complete {a : AdcUnit} (h : AdcInv a) (hrun : a.inProg = true) (h4 : nextRound a = 4) (raw : Word) :
    AdcInv { grid := storeSample a raw, round := nextRound a, chan := nextChan a, inProg := false,
             pub := (storeSample a raw).means, pubv := true } where
  grid := gridWf_storeSample h.grid raw
  pub := pubWf_means (gridWf_storeSample h.grid raw)
  running h' := by cases h'
  stopped _ := by
    obtain ⟨hr, hc⟩ := h.running hrun
    refine ⟨?_, .inr h4⟩
    rcases nextIndices hr hc with ⟨_, hchan, _⟩ | ⟨_, _, hround⟩
    · exact BitVec.eq_of_toNat_eq hchan
    · rw [← hround, h4] at hr
      exact absurd hr (by decide)
  pending h' := by cases h'
  published _ _ := ⟨h4, rfl⟩

/-- A cell past the one being stored keeps its 0. -/
theorem storeSample_read_later {a : AdcUnit} (h : AdcInv a) (hrun : a.inProg = true) (raw : Word) {r c : Nat}
    (hlater : a.round.toNat < r ∨ r = a.round.toNat ∧ a.chan.toNat < c) : (storeSample a raw).read r c = 0 := by
  rw [storeSample, Grid.read_write, if_neg (by omega)]
  exact h.pending hrun r c (by omega)

/-- A sample before the last one advances the indices inside the grid (R123). -/
theorem adcInv_advance {a : AdcUnit} (h : AdcInv a) (hrun : a.inProg = true) (h4 : nextRound a ≠ 4) (raw : Word) :
    AdcInv { a with grid := storeSample a raw, round := nextRound a, chan := nextChan a } := by
  obtain ⟨hr, hc⟩ := h.running hrun
  have hne : (nextRound a).toNat ≠ 4 := fun e => h4 (BitVec.eq_of_toNat_eq e)
  have hstopped : ¬ a.inProg = false := by simp [hrun]
  have hnext := nextIndices hr hc
  rw [← BitVec.toNat_inj] at hnext
  exact {
    grid := gridWf_storeSample h.grid raw
    pub := h.pub
    running := fun _ => ⟨by dsimp only; omega, by dsimp only; omega⟩
    stopped := fun h' => absurd h' hstopped
    pending := fun _ r c hlater => storeSample_read_later h hrun raw (by dsimp only at hlater; omega)
    published := fun h' => absurd h' hstopped }

theorem adcStart_inv (h : Inv s) (force : Bool) : Inv (adcStart force s) := by
  rcases adcStart_cases force s with ⟨_, _, e⟩ | ⟨_, e⟩ <;> rw [e]
  · exact h
  · exact inv_emit (inv_setAdc h (adcInv_restart h.adc)) _

theorem conversionComplete_inv (h : Inv s) (raw : Word) : Inv (conversionComplete raw s) := by
  rcases conversionComplete_cases raw s with ⟨_, e⟩ | ⟨hrun, h4, e⟩ | ⟨hrun, h4, e⟩ <;> rw [e]
  · exact h
  · exact inv_setAdc h (adcInv_complete h.adc hrun h4 raw)
  · exact inv_emit (inv_setAdc h (adcInv_advance h.adc hrun h4 raw)) _

/-! #### Capture engine -/

theorem capStart_inv (h : Inv s) (ch : Channel) : Inv (capStart ch s) := inv_setCap h ch (capInv_start _)

theorem capStop_inv (h : Inv s) (ch : Channel) : Inv (capStop ch s) := inv_setCap h ch (capInv_stop (h.cap ch))

theorem risingEdge_inv (h : Inv s) (ch : Channel) (time : Word) : Inv (risingEdge ch time s) := by
  unfold risingEdge
  split
  · next he => exact inv_setCap h ch (capInv_rise (h.cap ch) he time)
  · exact h

theorem fallingEdge_inv (h : Inv s) (ch : Channel) (time : Word) : Inv (fallingEdge CFG ch time s) := by
  unfold fallingEdge
  split
  · next he => exact inv_setCap h ch (capInv_fall (h.cap ch) he time)
  · exact h

/-! #### Conditioning pipeline -/

theorem loadBand_inv (h : Inv s) (c : Config) (ch : AdcChannel) : Inv (loadBand c ch s) := by
  unfold loadBand
  split
  · cases ch with
    | bandSelect1 => exact inv_setCc h .ch0 (h.timeout .ch0)
    | bandSelect2 => exact inv_setCc h .ch1 (h.timeout .ch1)
    | powerLimit => exact inv_setTier h _
  · exact h

theorem externalBranch_inv (h : Inv s) (k : Channel) : Inv (externalBranch CFG k s) :=
  inv_setCc
    (inv_setEw
      (inv_setLk (inv_setDc h k (debounceAfter_cnt (s.cap.get k) (s.cc.get k) (h.debounce k) (s.pinLvl.get k))) k
        (lockNext_inv _ _)) k _) k (timeoutNext_le (s.cap.get k) (s.cc.get k))

theorem condition_inv (h : Inv s) (k : Channel) : Inv (condition CFG k s) := by
  unfold condition
  split
  · exact externalBranch_inv h k
  · exact inv_setCc h k (h.timeout k)

theorem powerLimit_inv (h : Inv s) (c : Config) (k : Channel) : Inv (powerLimit c k s) :=
  inv_setCc h k (h.timeout k)

theorem outputGate_inv (h : Inv s) (c : Config) (k : Channel) : Inv (outputGate c k s) := by
  unfold outputGate
  split
  · exact inv_emit (inv_setDuty h k (clampedDuty_le _)) _
  · exact h

theorem channelPipeline_inv (h : Inv s) (k : Channel) : Inv (channelPipeline CFG k s) :=
  outputGate_inv (powerLimit_inv (condition_inv h k) CFG k) CFG k

/-! #### Operations and steps -/

theorem effectOf_inv_of_ne_ustep (h : Inv s) {i : Instr} (hi : i ≠ .ustep) : Inv (effectOf i s) := by
  cases i with
  | ustep => exact absurd rfl hi
  | nop | adcRead _ | capRead _ => exact h
  | cycle => exact inv_setCseq h (by decide)
  | adcStart force => exact adcStart_inv h force
  | capStart ch => exact capStart_inv h ch
  | capStop ch => exact capStop_inv h ch
  | ldband c => exact loadBand_inv h CFG c
  | lockStep k x => exact inv_setLk h k (lockNext_inv _ _)
  | dcdStep k level => exact inv_setDc h k (debounceNext_cnt _ _)
  | cond k => exact condition_inv h k
  | plim k => exact powerLimit_inv h CFG k
  | outg k => exact outputGate_inv h CFG k
  | chan k => exact channelPipeline_inv h k
  | ewInit k _ _ _ | ewReset k _ | ewUpdate k _ _ _ _ => exact inv_setEw h k _
  | evAdc raw => exact conversionComplete_inv h raw
  | evRise ch time => exact risingEdge_inv h ch time
  | evFall ch time => exact fallingEdge_inv h ch time
  | evPin k level => exact inv_setPin h k level

theorem microStep_inv (h : Inv s) (n : Nat) : Inv (microStep CFG n s) := by
  rw [microStep_eq]
  cases hn : Statements.controlCycle n with
  | none => exact h
  | some i => exact effectOf_inv_of_ne_ustep h (controlCycle_ne_ustep hn)

/-- The index advances from at most 7 to at most 8, and from 8 to 0 (R48, R220). -/
theorem nextCseq_le {n : BitVec 4} (h : n.toNat ≤ 8) : (nextCseq n).toNat ≤ 8 := by
  unfold nextCseq
  split
  · decide
  · bv_omega

theorem sequencerStep_inv (h : Inv s) : Inv (sequencerStep CFG s) := by
  unfold sequencerStep
  split
  · exact inv_setCseq (microStep_inv h _) (nextCseq_le h.cseq)
  · exact h

theorem effectOf_inv (h : Inv s) (i : Instr) : Inv (effectOf i s) := by
  by_cases hi : i = .ustep
  · subst hi; exact sequencerStep_inv h
  · exact effectOf_inv_of_ne_ustep h hi

theorem exec_inv (h : Inv s) {i : Instr} {t : State} (ht : exec i s = .next t) : Inv t := by
  rcases exec_cases i s with e | ⟨_, e⟩ | ⟨⟨hp, hu⟩, e⟩ <;> (rw [e] at ht; cases ht)
  · exact h
  · exact effectOf_inv h i
  · exact inv_setRes (effectOf_inv h i) (isResult_resultOf hp hu s)

theorem reservedWord_inv (h : Inv s) (p : Port) : Inv (reservedWord p s) := by
  cases p with
  | event => exact h
  | command =>
    rw [reservedWord]
    rcases acceptCommand_cases s (fun s => setRes s notReady) with ⟨_, e⟩ | ⟨_, e⟩ <;> rw [e]
    · exact h
    · exact inv_setRes h isResult_notReady

/-- Reset leaves the invariant whatever the state was: the elements that stay are none of its own (R270). -/
theorem applyReset_inv (s : State) : Inv (applyReset s) := { inv_reset with }

end Sys2Proof.Machine
end

section
namespace Sys2Proof.Machine

open Sys2Proof.Safety

/-- Settles O56, by cases on what the step finds to do: every operation's effect keeps the invariant, a result written
is a result word, and reset meets it from any state. -/
theorem stepKeepsTheStateInvariant : Obligations.StepKeepsTheStateInvariant := by
  intro s t h ht
  have htaken : Inv (taken s) := inv_setInputs h _
  rcases step_cases s with ⟨i, _, e⟩ | ⟨p, _, e⟩ | ⟨_, e⟩ | ⟨_, e⟩ | ⟨_, e⟩ <;> rw [e] at ht
  case inl => exact exec_inv htaken ht
  all_goals cases ht
  · exact reservedWord_inv htaken p
  · exact htaken
  · exact applyReset_inv (taken s)
  · exact h

end Sys2Proof.Machine
end

section
/-! ### A step performs the decoded operation; what a sequence of operations answers (R66, R90, R97) -/
namespace Sys2Proof.Machine

open Sys2Proof.Safety

theorem nextActivity_word {s : State} {p : Port} {w : OpWord} {rest : List Input}
    (h : s.inputs = .word p w :: rest) : nextActivity s = classify p w := by
  rw [nextActivity, h]

theorem classify_ok {p : Port} {w : OpWord} {i : Instr} (hd : decode w = .ok i) (hp : i.port = p) :
    classify p w = .run i := by
  simp [classify, hd, hp]

theorem taken_eq {s : State} {x : Input} {rest : List Input} (h : s.inputs = x :: rest) :
    taken s = { s with inputs := rest } := by
  rw [taken, h]; rfl

/-- Settles O8: the word at the head of the trace classifies as the operation it decodes to, and is taken. -/
theorem stepRunsTheDecodedOperation : Obligations.StepRunsTheDecodedOperation := by
  intro s p w rest i hin hd hp
  rw [step, nextActivity_word hin, classify_ok hd hp, ← taken_eq hin]

/-- A sequence of operations goes on from the state its first operation answers. -/
theorem runOps_cons {i : Instr} {s t : State} (h : exec i s = .next t) (is : List Instr) :
    runOps (i :: is) s = runOps is t := by
  simp [runOps, nextOf, h]

theorem runOps_one {i : Instr} {s t : State} (h : exec i s = .next t) : runOps [i] s = some t := runOps_cons h []

theorem runOps_two {i j : Instr} {s t u : State} (hi : exec i s = .next t) (hj : exec j t = .next u) :
    runOps [i, j] s = some u := by
  rw [runOps_cons hi, runOps_one hj]

end Sys2Proof.Machine
end

section
/-! ### What ADC_READ shows of a batch (R70, R122) -/
namespace Sys2Proof.Machine

open Sys2Proof.Safety

theorem adcReadable_iff (s : State) : adcReadable s = true ↔ s.adc.inProg = false ∧ s.adc.pubv = true := by
  simp [adcReadable]

theorem adcReadResult_running {s : State} (h : s.adc.inProg = true) (c : AdcChannel) :
    adcReadResult c s = notReady := by
  simp [adcReadResult, adcReadable, h]

theorem adcReadResult_unpublished {s : State} (h : s.adc.pubv = false) (c : AdcChannel) :
    adcReadResult c s = notReady := by
  simp [adcReadResult, adcReadable, h]

theorem adcReadResult_published {s : State} (hrun : s.adc.inProg = false) (hpub : s.adc.pubv = true)
    (c : AdcChannel) : adcReadResult c s = readyWord (s.adc.pub.get c) := by
  rw [adcReadResult, if_pos ((adcReadable_iff s).mpr ⟨hrun, hpub⟩)]

theorem Grid.means_get (g : Grid) (c : AdcChannel) : g.means.get c = g.mean c.sel := by
  cases c <;> rfl

/-- Between batches the published values are the means of the completed batch, which the grid still holds. -/
theorem pub_toNat_of_adcInv {a : AdcUnit} (h : AdcInv a) (hrun : a.inProg = false) (hpub : a.pubv = true)
    (c : AdcChannel) : (a.pub.get c).toNat = Statements.columnSum a.grid c.sel / 4 := by
  obtain ⟨_, hmeans⟩ := h.published hrun hpub
  rw [hmeans, Grid.means_get, Grid.mean_toNat h.grid, Statements.columnSum]

/-- Settles O25, by the three states of the engine: acquiring, nothing published yet, published. -/
theorem adcReadNeverShowsAnUnfinishedBatch : Obligations.AdcReadNeverShowsAnUnfinishedBatch := by
  intro s c h hs
  refine ⟨_, exec_command_idle (i := .adcRead c) rfl nofun hs, ?_⟩
  simp only [setRes_res]
  cases hrun : s.adc.inProg with
  | true => exact adcReadResult_running hrun c
  | false =>
    cases hpub : s.adc.pubv with
    | false => exact .inl (adcReadResult_unpublished hpub c)
    | true =>
      exact .inr ⟨s.adc.pub.get c, adcReadResult_published hrun hpub c, Nat.le_of_lt_succ (h.adc.pub c),
        pub_toNat_of_adcInv h.adc hrun hpub c⟩

end Sys2Proof.Machine
end

section
/-! ### Events of different groups (R69)

Each handler replaces one part of the state by a function of that part alone: EV_ADC unit ADC, with its pulses, an edge
the capture record of its channel, EV_PIN a pin. So handlers of different groups commute. -/
namespace Sys2Proof.Machine

open Sys2Proof.Safety

/-- Replace unit ADC by a function of itself, with the pulses that go with it: all that the handler of EV_ADC does. -/
def updateAdc (f : AdcUnit → AdcUnit × List Pulse) (s : State) : State :=
  { s with adc := (f s.adc).1, pulses := (f s.adc).2 ++ s.pulses }

/-- Replace the capture record of channel `ch` by a function of itself: all that a handler of its edges does. -/
def updateCap (ch : Channel) (f : CapRecord → CapRecord) (s : State) : State := setCap s ch (f (s.cap.get ch))

/-- Unit ADC after a conversion, and the request emitted (R123). -/
def conversionUpdate (raw : Word) (a : AdcUnit) : AdcUnit × List Pulse :=
  if a.inProg then
    if nextRound a = 4 then
      ({ grid := storeSample a raw, round := nextRound a, chan := nextChan a
         inProg := false, pub := (storeSample a raw).means, pubv := true }, [])
    else
      ({ a with grid := storeSample a raw, round := nextRound a, chan := nextChan a }, [.adcReq (nextChan a)])
  else (a, [])

/-- The capture record after a rising edge (R144, R146). -/
def riseUpdate (time : Word) (r : CapRecord) : CapRecord :=
  if r.enr then { r with rise := time, seenR := true } else r

/-- The capture record after a falling edge (R145, R146). -/
def fallUpdate (c : Config) (time : Word) (r : CapRecord) : CapRecord :=
  if r.enf then fallRecord c r time else r

/-- The number `Statements.eventGroup` gives the edges of a channel. -/
def edgeGroup : Channel → Nat
  | .ch0 => 1
  | .ch1 => 2

theorem conversionComplete_eq_updateAdc (raw : Word) (s : State) :
    conversionComplete raw s = updateAdc (conversionUpdate raw) s := by
  rcases conversionComplete_cases raw s with ⟨hrun, e⟩ | ⟨hrun, h4, e⟩ | ⟨hrun, h4, e⟩ <;> rw [e]
  · simp [updateAdc, conversionUpdate, hrun]
  · rw [updateAdc, conversionUpdate, if_pos hrun, if_pos h4]; rfl
  · rw [updateAdc, conversionUpdate, if_pos hrun, if_neg h4]; rfl

theorem risingEdge_eq_updateCap (ch : Channel) (time : Word) (s : State) :
    risingEdge ch time s = updateCap ch (riseUpdate time) s := by
  unfold risingEdge updateCap riseUpdate
  split
  · rfl
  · simp [setCap]

theorem fallingEdge_eq_updateCap (c : Config) (ch : Channel) (time : Word) (s : State) :
    fallingEdge c ch time s = updateCap ch (fallUpdate c time) s := by
  unfold fallingEdge updateCap fallUpdate
  split
  · rfl
  · simp [setCap]

/-- What the handler of an event replaces, by the group of the event. -/
theorem eventGroup_cases {i : Instr} {g : Nat} (h : Statements.eventGroup i = some g) :
    (g = 0 ∧ ∃ f, effectOf i = updateAdc f) ∨
    (∃ ch, g = edgeGroup ch ∧ ∃ f, effectOf i = updateCap ch f) ∨
    (g = 3 ∧ ∃ k level, effectOf i = fun s => setPin s k level) := by
  cases i with
  | evAdc raw => cases h; exact .inl ⟨rfl, _, funext (conversionComplete_eq_updateAdc raw)⟩
  | evRise ch time =>
    exact .inr (.inl ⟨ch, by cases ch <;> cases h <;> rfl, _, funext (risingEdge_eq_updateCap ch time)⟩)
  | evFall ch time =>
    exact .inr (.inl ⟨ch, by cases ch <;> cases h <;> rfl, _, funext (fallingEdge_eq_updateCap CFG ch time)⟩)
  | evPin k level => cases h; exact .inr (.inr ⟨rfl, k, level, rfl⟩)
  | _ => cases h

theorem port_of_eventGroup {i : Instr} {g : Nat} (h : Statements.eventGroup i = some g) : i.port = .event := by
  cases i with
  | evAdc _ | evRise _ _ | evFall _ _ | evPin _ _ => rfl
  | _ => cases h

theorem updateCap_comm {ch ch' : Channel} (hne : ch ≠ ch') (f f' : CapRecord → CapRecord) (s : State) :
    updateCap ch f (updateCap ch' f' s) = updateCap ch' f' (updateCap ch f s) := by
  simp only [updateCap, setCap, Pair.get_set_other _ hne, Pair.get_set_other _ hne.symm, Pair.set_comm _ hne]

/-- The handlers of events of different groups commute. Two edges need `updateCap_comm`, since both write CAP; every other
pair writes different fields of State, and the two orders unfold to one term. -/
theorem effectOf_comm {i j : Instr} {g h : Nat} (hi : Statements.eventGroup i = some g)
    (hj : Statements.eventGroup j = some h) (hgh : g ≠ h) (s : State) :
    effectOf j (effectOf i s) = effectOf i (effectOf j s) := by
  rcases eventGroup_cases hi with ⟨rfl, f, ei⟩ | ⟨ch, rfl, f, ei⟩ | ⟨rfl, k, level, ei⟩ <;>
    rcases eventGroup_cases hj with ⟨rfl, f', ej⟩ | ⟨ch', rfl, f', ej⟩ | ⟨rfl, k', level', ej⟩ <;> rw [ei, ej]
  case inl.inl => exact absurd rfl hgh
  case inr.inr.inr.inr => exact absurd rfl hgh
  case inr.inl.inr.inl => exact updateCap_comm (fun e => hgh (by rw [e])) f' f s
  all_goals rfl

/-- From a block just armed, a rise and then a fall complete the measurement; a fall and then a rise do not. -/
theorem rise_fall_order_matters (ch : Channel) (r f : Word) :
    runOps [.evRise ch r, .evFall ch f] (capStart ch State.reset) ≠
      runOps [.evFall ch f, .evRise ch r] (capStart ch State.reset) := by
  intro h
  have hdone := congrArg (Option.map fun t => (t.cap.get ch).done) h
  cases ch <;> cases hdone

/-- Settles O52: the handlers of different groups commute, and a block just armed tells the two orders of a rising
and a falling edge apart. -/
theorem eventsOfDifferentGroupsCommute : Obligations.EventsOfDifferentGroupsCommute := by
  refine ⟨fun i j g h s hi hj hgh => ?_, fun ch => ⟨capStart ch State.reset, 0, 0, rise_fall_order_matters ch 0 0⟩⟩
  have ei := exec_event_or_ustep (.inl (port_of_eventGroup hi))
  have ej := exec_event_or_ustep (.inl (port_of_eventGroup hj))
  exact ⟨effectOf j (effectOf i s), runOps_two (ei s) (ej _),
    effectOf_comm hi hj hgh s ▸ runOps_two (ej s) (ei _)⟩

end Sys2Proof.Machine
end

section
/-! ### The elements each operation writes (R61)

`WritesOnlyRow i s t` says that `t` differs from `s` only in elements the row of `i` marks W. As for the invariant, there
is one rule per write of a state element: what the written value must satisfy. Then each operation's effect is a
composition of such writes. -/
namespace Sys2Proof.Machine

open Sys2Proof.Safety

/-- A property of each channel's record survives a write that has it at its channel. -/
theorem Pair.forall_set_at {α : Type} {P : Channel → α → Prop} {p : Pair α} {k : Channel} {a : α}
    (hp : ∀ j, P j (p.get j)) (ha : P k a) : ∀ j, P j ((p.set k a).get j) := by
  intro j
  rw [Pair.get_set]
  split
  · next e => exact e ▸ ha
  · exact hp j

/-- Unit ADC: the columns of its published values and of the rest. -/
structure AdcRow (i : Instr) (a a' : AdcUnit) : Prop where
  unit : (∀ f, i ≠ .adcStart f) → (∀ r, i ≠ .evAdc r) → a' = a
  published : (∀ r, i ≠ .evAdc r) → a'.pub = a.pub ∧ a'.pubv = a.pubv

/-- The capture record of channel `ch`. -/
structure CapRow (i : Instr) (ch : Channel) (r r' : CapRecord) : Prop where
  rise : (∀ v, i ≠ .evRise ch v) → r'.rise = r.rise
  fall : (∀ v, i ≠ .evFall ch v) → r'.fall = r.fall ∧ r'.duty = r.duty
  done : i ≠ .capStart ch → (∀ v, i ≠ .evFall ch v) → r'.done = r.done
  seenR : i ≠ .capStart ch → (∀ v, i ≠ .evRise ch v) → r'.seenR = r.seenR
  enables : i ≠ .capStart ch → i ≠ .capStop ch → (∀ v, i ≠ .evFall ch v) → r'.enr = r.enr ∧ r'.enf = r.enf

/-- The filter of channel `k`. -/
def EwRow (i : Instr) (k : Channel) (e e' : EwRecord) : Prop :=
  i ≠ .cond k → i ≠ .chan k → (∀ b v w, i ≠ .ewInit k b v w) → (∀ v, i ≠ .ewReset k v) →
    (∀ b v w x, i ≠ .ewUpdate k b v w x) → e' = e

/-- The endpoint lock of channel `k`. -/
def LkRow (i : Instr) (k : Channel) (l l' : LockRecord) : Prop :=
  i ≠ .cond k → i ≠ .chan k → (∀ x, i ≠ .lockStep k x) → l' = l

/-- The debounce of channel `k`. -/
def DcRow (i : Instr) (k : Channel) (d d' : DebounceRecord) : Prop :=
  i ≠ .cond k → i ≠ .chan k → (∀ l, i ≠ .dcdStep k l) → d' = d

/-- The control record of channel `k`. -/
structure CcRow (i : Instr) (k : Channel) (r r' : ControlRecord) : Prop where
  input : i ≠ .cond k → i ≠ .chan k → r'.inval = r.inval ∧ r'.mode = r.mode ∧ r'.tmo = r.tmo
  output : i ≠ .plim k → i ≠ .chan k → r'.outval = r.outval
  band : (∀ c, i ≠ .ldband c) → r'.band = r.band

/-- The output register of channel `k`. -/
def DutyRow (i : Instr) (k : Channel) (v v' : Word) : Prop := i ≠ .outg k → i ≠ .chan k → v' = v

/-- The input pin of channel `k`. -/
def PinRow (i : Instr) (k : Channel) (b b' : Bool) : Prop := (∀ l, i ≠ .evPin k l) → b' = b

/-- `t` has the elements of `s`, but for those that the row of `i` marks W, and its trace (R61). -/
structure WritesOnlyRow (i : Instr) (s t : State) : Prop where
  inputs : t.inputs = s.inputs
  adc : AdcRow i s.adc t.adc
  cap : ∀ ch, CapRow i ch (s.cap.get ch) (t.cap.get ch)
  ew : ∀ k, EwRow i k (s.ew.get k) (t.ew.get k)
  lk : ∀ k, LkRow i k (s.lk.get k) (t.lk.get k)
  dc : ∀ k, DcRow i k (s.dc.get k) (t.dc.get k)
  cc : ∀ k, CcRow i k (s.cc.get k) (t.cc.get k)
  tier : (∀ c, i ≠ .ldband c) → t.tier = s.tier
  duty : ∀ k, DutyRow i k (s.duty.get k) (t.duty.get k)
  pin : ∀ k, PinRow i k (s.pinLvl.get k) (t.pinLvl.get k)
  cseq : i ≠ .cycle → t.cseq = s.cseq

variable {i : Instr} {s t : State}

theorem WritesOnlyRow.refl (i : Instr) (s : State) : WritesOnlyRow i s s where
  inputs := rfl
  adc := ⟨fun _ _ => rfl, fun _ => ⟨rfl, rfl⟩⟩
  cap _ := ⟨fun _ => rfl, fun _ => ⟨rfl, rfl⟩, fun _ _ => rfl, fun _ _ => rfl, fun _ _ _ => ⟨rfl, rfl⟩⟩
  ew _ _ _ _ _ _ := rfl
  lk _ _ _ _ := rfl
  dc _ _ _ _ := rfl
  cc _ := ⟨fun _ _ => ⟨rfl, rfl, rfl⟩, fun _ _ => rfl, fun _ => rfl⟩
  tier _ := rfl
  duty _ _ _ := rfl
  pin _ _ := rfl
  cseq _ := rfl

/-! #### One rule per write -/

theorem row_setAdc (h : WritesOnlyRow i s t) {a : AdcUnit} (ha : AdcRow i s.adc a) : WritesOnlyRow i s (setAdc t a) :=
  { h with adc := ha }

theorem row_setCap (h : WritesOnlyRow i s t) {ch : Channel} {r : CapRecord} (hr : CapRow i ch (s.cap.get ch) r) :
    WritesOnlyRow i s (setCap t ch r) :=
  { h with cap := Pair.forall_set_at (P := fun ch => CapRow i ch (s.cap.get ch)) h.cap hr }

theorem row_setEw (h : WritesOnlyRow i s t) {k : Channel} {e : EwRecord} (he : EwRow i k (s.ew.get k) e) :
    WritesOnlyRow i s (setEw t k e) :=
  { h with ew := Pair.forall_set_at (P := fun k => EwRow i k (s.ew.get k)) h.ew he }

theorem row_setLk (h : WritesOnlyRow i s t) {k : Channel} {l : LockRecord} (hl : LkRow i k (s.lk.get k) l) :
    WritesOnlyRow i s (setLk t k l) :=
  { h with lk := Pair.forall_set_at (P := fun k => LkRow i k (s.lk.get k)) h.lk hl }

theorem row_setDc (h : WritesOnlyRow i s t) {k : Channel} {d : DebounceRecord} (hd : DcRow i k (s.dc.get k) d) :
    WritesOnlyRow i s (setDc t k d) :=
  { h with dc := Pair.forall_set_at (P := fun k => DcRow i k (s.dc.get k)) h.dc hd }

theorem row_setCc (h : WritesOnlyRow i s t) {k : Channel} {r : ControlRecord} (hr : CcRow i k (s.cc.get k) r) :
    WritesOnlyRow i s (setCc t k r) :=
  { h with cc := Pair.forall_set_at (P := fun k => CcRow i k (s.cc.get k)) h.cc hr }

theorem row_setTier (h : WritesOnlyRow i s t) {v : BitVec 2} (hv : (∀ c, i ≠ .ldband c) → v = s.tier) :
    WritesOnlyRow i s (setTier t v) := { h with tier := hv }

theorem row_setDuty (h : WritesOnlyRow i s t) {k : Channel} {v : Word} (hv : DutyRow i k (s.duty.get k) v) :
    WritesOnlyRow i s (setDuty t k v) :=
  { h with duty := Pair.forall_set_at (P := fun k => DutyRow i k (s.duty.get k)) h.duty hv }

theorem row_setPin (h : WritesOnlyRow i s t) {k : Channel} {b : Bool} (hb : PinRow i k (s.pinLvl.get k) b) :
    WritesOnlyRow i s (setPin t k b) :=
  { h with pin := Pair.forall_set_at (P := fun k => PinRow i k (s.pinLvl.get k)) h.pin hb }

theorem row_setCseq (h : WritesOnlyRow i s t) {n : BitVec 4} (hn : i ≠ .cycle → n = s.cseq) :
    WritesOnlyRow i s (setCseq t n) := { h with cseq := hn }

theorem row_setRes (h : WritesOnlyRow i s t) (r : ResultWord) : WritesOnlyRow i s (setRes t r) := { h with }

theorem row_emit (h : WritesOnlyRow i s t) (p : Pulse) : WritesOnlyRow i s (emit t p) := { h with }

/-! #### Operations -/

theorem adcStart_row (force : Bool) (s : State) : WritesOnlyRow (.adcStart force) s (adcStart force s) := by
  rcases adcStart_cases force s with ⟨_, _, e⟩ | ⟨_, e⟩ <;> rw [e]
  · exact .refl _ s
  · refine row_emit (row_setAdc (.refl _ s) ?_) _
    exact ⟨fun h _ => absurd rfl (h force), fun _ => ⟨rfl, rfl⟩⟩

theorem conversionComplete_row (raw : Word) (s : State) : WritesOnlyRow (.evAdc raw) s (conversionComplete raw s) := by
  have hrow (a : AdcUnit) : AdcRow (.evAdc raw) s.adc a :=
    ⟨fun _ h => absurd rfl (h raw), fun h => absurd rfl (h raw)⟩
  rcases conversionComplete_cases raw s with ⟨_, e⟩ | ⟨_, _, e⟩ | ⟨_, _, e⟩ <;> rw [e]
  · exact .refl _ s
  · exact row_setAdc (.refl _ s) (hrow _)
  · exact row_emit (row_setAdc (.refl _ s) (hrow _)) _

theorem capStart_row (ch : Channel) (s : State) : WritesOnlyRow (.capStart ch) s (capStart ch s) :=
  row_setCap (.refl _ s)
    ⟨fun _ => rfl, fun _ => ⟨rfl, rfl⟩, fun h => absurd rfl h, fun h => absurd rfl h, fun h => absurd rfl h⟩

theorem capStop_row (ch : Channel) (s : State) : WritesOnlyRow (.capStop ch) s (capStop ch s) :=
  row_setCap (.refl _ s)
    ⟨fun _ => rfl, fun _ => ⟨rfl, rfl⟩, fun _ _ => rfl, fun _ _ => rfl, fun _ h => absurd rfl h⟩

theorem risingEdge_row (ch : Channel) (time : Word) (s : State) :
    WritesOnlyRow (.evRise ch time) s (risingEdge ch time s) := by
  unfold risingEdge
  split
  · exact row_setCap (.refl _ s)
      ⟨fun h => absurd rfl (h time), fun _ => ⟨rfl, rfl⟩, fun _ _ => rfl, fun _ h => absurd rfl (h time),
        fun _ _ _ => ⟨rfl, rfl⟩⟩
  · exact .refl _ s

theorem fallRecord_seenR_rise (c : Config) (r : CapRecord) (time : Word) :
    (fallRecord c r time).seenR = r.seenR ∧ (fallRecord c r time).rise = r.rise := by
  unfold fallRecord
  split <;> exact ⟨rfl, rfl⟩

theorem fallingEdge_row (ch : Channel) (time : Word) (s : State) :
    WritesOnlyRow (.evFall ch time) s (fallingEdge CFG ch time s) := by
  obtain ⟨hseen, hrise⟩ := fallRecord_seenR_rise CFG (s.cap.get ch) time
  unfold fallingEdge
  split
  · exact row_setCap (.refl _ s)
      ⟨fun _ => hrise, fun h => absurd rfl (h time), fun _ h => absurd rfl (h time), fun _ _ => hseen,
        fun _ _ h => absurd rfl (h time)⟩
  · exact .refl _ s

theorem loadBand_row (c : AdcChannel) (s : State) : WritesOnlyRow (.ldband c) s (loadBand CFG c s) := by
  have hband (k : Channel) (b : BitVec 3) : CcRow (.ldband c) k (s.cc.get k) { s.cc.get k with band := b } :=
    ⟨fun _ _ => ⟨rfl, rfl, rfl⟩, fun _ _ => rfl, fun h => absurd rfl (h c)⟩
  unfold loadBand
  split
  · cases c with
    | bandSelect1 | bandSelect2 => exact row_setCc (.refl _ s) (hband _ _)
    | powerLimit => exact row_setTier (.refl _ s) fun h => absurd rfl (h .powerLimit)
  · exact .refl _ s

/-- COND alone and as the first part of CHAN. -/
theorem condition_row {k : Channel} (hi : i = .cond k ∨ i = .chan k) (s : State) :
    WritesOnlyRow i s (condition CFG k s) := by
  have hw : i ≠ .cond k → i ≠ .chan k → False := fun h1 h2 => hi.elim h1 h2
  have hcc {r : ControlRecord} (hout : r.outval = (s.cc.get k).outval) (hb : r.band = (s.cc.get k).band) :
      CcRow i k (s.cc.get k) r := ⟨fun h1 h2 => (hw h1 h2).elim, fun _ _ => hout, fun _ => hb⟩
  unfold condition
  split
  · exact row_setCc
      (row_setEw
        (row_setLk (row_setDc (.refl i s) fun h1 h2 => (hw h1 h2).elim) fun h1 h2 => (hw h1 h2).elim)
        fun h1 h2 => (hw h1 h2).elim) (hcc rfl rfl)
  · exact row_setCc (.refl i s) (hcc rfl rfl)

/-- PLIM alone and as the second part of CHAN. -/
theorem powerLimit_row {k : Channel} (hi : i = .plim k ∨ i = .chan k) (h : WritesOnlyRow i s t) :
    WritesOnlyRow i s (powerLimit CFG k t) :=
  row_setCc h ⟨(h.cc k).input, fun h1 h2 => (hi.elim h1 h2).elim, (h.cc k).band⟩

/-- OUTG alone and as the last part of CHAN. -/
theorem outputGate_row {k : Channel} (hi : i = .outg k ∨ i = .chan k) (h : WritesOnlyRow i s t) :
    WritesOnlyRow i s (outputGate CFG k t) := by
  unfold outputGate
  split
  · exact row_emit (row_setDuty h fun h1 h2 => (hi.elim h1 h2).elim) _
  · exact h

theorem channelPipeline_row (k : Channel) (s : State) : WritesOnlyRow (.chan k) s (channelPipeline CFG k s) :=
  outputGate_row (.inr rfl) (powerLimit_row (.inr rfl) (condition_row (.inr rfl) s))

/-- An operation other than USTEP writes only its row. -/
theorem effectOf_row (hi : i ≠ .ustep) (s : State) : WritesOnlyRow i s (effectOf i s) := by
  cases i with
  | ustep => exact absurd rfl hi
  | nop | adcRead _ | capRead _ => exact .refl _ s
  | cycle => exact row_setCseq (.refl _ s) fun h => absurd rfl h
  | adcStart force => exact adcStart_row force s
  | capStart ch => exact capStart_row ch s
  | capStop ch => exact capStop_row ch s
  | ldband c => exact loadBand_row c s
  | lockStep k x => exact row_setLk (.refl _ s) fun _ _ h => absurd rfl (h x)
  | dcdStep k level => exact row_setDc (.refl _ s) fun _ _ h => absurd rfl (h level)
  | cond k => exact condition_row (.inl rfl) s
  | plim k => exact powerLimit_row (.inl rfl) (.refl _ s)
  | outg k => exact outputGate_row (.inl rfl) (.refl _ s)
  | chan k => exact channelPipeline_row k s
  | ewInit k enabled initial length =>
    exact row_setEw (.refl _ s) fun _ _ h => absurd rfl (h enabled initial length)
  | ewReset k value => exact row_setEw (.refl _ s) fun _ _ _ h => absurd rfl (h value)
  | ewUpdate k enabled sample deadBand maxError =>
    exact row_setEw (.refl _ s) fun _ _ _ _ h => absurd rfl (h enabled sample deadBand maxError)
  | evAdc raw => exact conversionComplete_row raw s
  | evRise ch time => exact risingEdge_row ch time s
  | evFall ch time => exact fallingEdge_row ch time s
  | evPin k level => exact row_setPin (.refl _ s) fun h => absurd rfl (h level)

@[simp] theorem microStep_inputs (n : Nat) (s : State) : (microStep CFG n s).inputs = s.inputs := by
  rw [microStep_eq]
  cases hn : Statements.controlCycle n with
  | none => rfl
  | some i => exact (effectOf_row (controlCycle_ne_ustep hn) s).inputs

@[simp] theorem effectOf_inputs (i : Instr) (s : State) : (effectOf i s).inputs = s.inputs := by
  by_cases hi : i = .ustep
  · subst hi
    simp only [effectOf, sequencerStep]
    split
    · simp
    · rfl
  · exact (effectOf_row hi s).inputs

/-- Every operation leaves the trace alone and, USTEP apart, writes only its row. -/
theorem exec_row (i : Instr) (s : State) :
    ∃ t, exec i s = .next t ∧ t.inputs = s.inputs ∧ (i ≠ .ustep → WritesOnlyRow i s t) := by
  rcases exec_cases i s with e | ⟨_, e⟩ | ⟨_, e⟩
  · exact ⟨s, e, rfl, fun _ => .refl i s⟩
  · exact ⟨_, e, effectOf_inputs i s, fun hi => effectOf_row hi s⟩
  · exact ⟨_, e, effectOf_inputs i s, fun hi => row_setRes (effectOf_row hi s) _⟩

end Sys2Proof.Machine
end

section
namespace Sys2Proof.Machine

/-- Settles O54: `exec_row`, read column by column. -/
theorem operationsWriteOnlyTheirRow : Obligations.OperationsWriteOnlyTheirRow := by
  intro i s
  obtain ⟨t, ht, hin, hrow⟩ := exec_row i s
  refine ⟨t, ht, hin, fun hi => ?_⟩
  have h := hrow hi
  exact ⟨h.adc.unit, h.adc.published, fun ch => (h.cap ch).rise, fun ch => (h.cap ch).fall, fun ch => (h.cap ch).done,
    fun ch => (h.cap ch).seenR, fun ch => (h.cap ch).enables, h.ew, h.lk, h.dc, fun k => (h.cc k).input,
    fun k => (h.cc k).output, fun hl => ⟨h.tier hl, fun k => (h.cc k).band hl⟩, h.duty, h.pin, h.cseq⟩

end Sys2Proof.Machine
end

section
/-! ### Commands that repeat without effect (R65) -/
namespace Sys2Proof.Machine

open Sys2Proof.Safety

/-- The commands R65 calls idempotent. -/
def Idempotent : Instr → Prop
  | .nop | .adcRead _ | .capRead _ | .capStart _ | .capStop _ | .ewReset _ _ | .ewInit _ _ _ _ | .adcStart false => True
  | _ => False

theorem Idempotent.port {i : Instr} (hi : Idempotent i) : i.port = .command := by
  cases i with
  | evAdc _ | evRise _ _ | evFall _ _ | evPin _ _ => cases hi
  | _ => rfl

theorem Idempotent.ne_ustep {i : Instr} (hi : Idempotent i) : i ≠ .ustep := by
  rintro rfl; cases hi

theorem Idempotent.ne_cycle {i : Instr} (hi : Idempotent i) : i ≠ .cycle := by
  rintro rfl; cases hi

/-- With a batch in progress ADC_START 0 is a keep-alive (R121). -/
theorem adcStart_false_running {s : State} (h : s.adc.inProg = true) : adcStart false s = s := by
  simp [adcStart, h]

/-- ADC_START 1 always restarts (R121). -/
theorem adcStart_true (s : State) :
    adcStart true s =
      emit (setAdc s { s.adc with round := 0, chan := 0, grid := Grid.zero, inProg := true }) (.adcReq 0) := by
  simp [adcStart]

/-- After ADC_START a batch is in progress. -/
theorem adcStart_inProg (force : Bool) (s : State) : (adcStart force s).adc.inProg = true := by
  rcases adcStart_cases force s with ⟨h, _, e⟩ | ⟨_, e⟩ <;> rw [e]
  · exact h
  · rfl

/-- Repeated on the state it has left, an idempotent command changes nothing and returns the same result. -/
theorem effectOf_resultOf_repeat {i : Instr} (hi : Idempotent i) (s : State) (r : ResultWord) :
    effectOf i (setRes (effectOf i s) r) = setRes (effectOf i s) r ∧
      resultOf i (setRes (effectOf i s) r) = resultOf i s := by
  cases i with
  | nop | adcRead _ | capRead _ => exact ⟨rfl, rfl⟩
  | capStart ch => exact ⟨by simp [effectOf, capStart, setCap, setRes], rfl⟩
  | capStop ch => exact ⟨by simp [effectOf, capStop, setCap, setRes], rfl⟩
  | ewInit k _ initial length => exact ⟨by simp [effectOf, setEw, setRes], rfl⟩
  | ewReset k value => exact ⟨by simp [effectOf, ewReset, setEw, setRes], by simp [resultOf, ewReset]⟩
  | adcStart force =>
    cases force with
    | true => cases hi
    | false => exact ⟨adcStart_false_running (adcStart_inProg false s), rfl⟩
  | _ => cases hi

/-- A command on an idle block, or NOP on any, is performed and writes its result (R216, R218). -/
theorem exec_command_performed {i : Instr} (hp : i.port = .command) (hu : i ≠ .ustep) {s : State}
    (h : s.cseq = 0 ∨ i = .nop) : exec i s = .next (setRes (effectOf i s) (resultOf i s)) := by
  rcases h with hs | rfl
  · exact exec_command_idle hp hu hs
  · rfl

/-- An idempotent command leaves the state it has left as it is. -/
theorem exec_repeat {i : Instr} (hi : Idempotent i) {s t : State} (ht : exec i s = .next t) :
    exec i t = .next t := by
  by_cases h : s.cseq = 0 ∨ i = .nop
  · rw [exec_command_performed hi.port hi.ne_ustep h] at ht
    cases ht
    obtain ⟨heffect, hresult⟩ := effectOf_resultOf_repeat hi s (resultOf i s)
    have hcseq : (effectOf i s).cseq = s.cseq := (effectOf_row hi.ne_ustep s).cseq hi.ne_cycle
    rw [exec_command_performed hi.port hi.ne_ustep (by rwa [setRes_cseq, hcseq]), heffect, hresult]
    rfl
  · obtain ⟨hs, hn⟩ := not_or.mp h
    have hdropped := exec_command_busy hi.port hi.ne_ustep hn hs
    rw [hdropped] at ht
    cases ht
    exact hdropped

/-- ADC_START 1, repeated, restarts the batch it has just started: only the request is new. -/
theorem adcStart_true_repeat (s : State) (r : ResultWord) :
    setRes (adcStart true (setRes (adcStart true s) r)) r = emit (setRes (adcStart true s) r) (.adcReq 0) := by
  simp only [adcStart_true]
  rfl

/-- Settles O55: `exec_repeat` for the commands R65 calls idempotent, `adcStart_true_repeat` for the forced restart. -/
theorem idempotentCommandsRepeatWithoutEffect : Obligations.IdempotentCommandsRepeatWithoutEffect := by
  refine ⟨fun i s h => ?_, fun s hs => ?_⟩
  · have hi : Idempotent i := by
      rcases h with rfl | ⟨c, rfl⟩ | ⟨ch, rfl⟩ | ⟨ch, rfl⟩ | ⟨ch, rfl⟩ | ⟨k, v, rfl⟩ | ⟨k, b, v, w, rfl⟩ | rfl <;>
        trivial
    obtain ⟨t, ht, _⟩ := exec_row i s
    exact ⟨t, runOps_one ht, runOps_two ht (exec_repeat hi ht)⟩
  · have hstart {u : State} (hu : u.cseq = 0) :
        exec (.adcStart true) u = .next (setRes (adcStart true u) (ready 0)) :=
      exec_command_idle (i := .adcStart true) rfl nofun hu
    have hcseq : (adcStart true s).cseq = 0 := by rw [adcStart_true]; exact hs
    have htwice := hstart (u := setRes (adcStart true s) (ready 0)) hcseq
    rw [adcStart_true_repeat] at htwice
    exact ⟨_, runOps_one (hstart hs), runOps_two (hstart hs) htwice⟩

end Sys2Proof.Machine
end

section
/-! ### Operations and their words: the round trip, the rows of R96, the ports (R90, R96, R97, R101) -/
namespace Sys2Proof

open Laws

/-- The three laws of an operation's word, collected over the constructors: it decodes back, it selects the row of its
mnemonic, and it belongs to the operation's port. -/
theorem encoding_laws (i : Instr) :
    RoundTrip.Statement i ∧ TableRow.Statement i ∧ PortOfWord.Statement i := by
  cases i with
  | nop => exact ⟨RoundTrip.nop, TableRow.nop, PortOfWord.nop⟩
  | cycle => exact ⟨RoundTrip.cycle, TableRow.cycle, PortOfWord.cycle⟩
  | ustep => exact ⟨RoundTrip.ustep, TableRow.ustep, PortOfWord.ustep⟩
  | adcStart force => exact ⟨RoundTrip.adcStart force, TableRow.adcStart force, PortOfWord.adcStart force⟩
  | adcRead c => exact ⟨RoundTrip.adcRead c, TableRow.adcRead c, PortOfWord.adcRead c⟩
  | capStart ch => exact ⟨RoundTrip.capStart ch, TableRow.capStart ch, PortOfWord.capStart ch⟩
  | capStop ch => exact ⟨RoundTrip.capStop ch, TableRow.capStop ch, PortOfWord.capStop ch⟩
  | capRead ch => exact ⟨RoundTrip.capRead ch, TableRow.capRead ch, PortOfWord.capRead ch⟩
  | ldband c => exact ⟨RoundTrip.ldband c, TableRow.ldband c, PortOfWord.ldband c⟩
  | lockStep k x => exact ⟨RoundTrip.lockStep k x, TableRow.lockStep k x, PortOfWord.lockStep k x⟩
  | dcdStep k level => exact ⟨RoundTrip.dcdStep k level, TableRow.dcdStep k level, PortOfWord.dcdStep k level⟩
  | cond k => exact ⟨RoundTrip.cond k, TableRow.cond k, PortOfWord.cond k⟩
  | plim k => exact ⟨RoundTrip.plim k, TableRow.plim k, PortOfWord.plim k⟩
  | outg k => exact ⟨RoundTrip.outg k, TableRow.outg k, PortOfWord.outg k⟩
  | chan k => exact ⟨RoundTrip.chan k, TableRow.chan k, PortOfWord.chan k⟩
  | ewInit k enabled initial length =>
    exact ⟨RoundTrip.ewInit k enabled initial length, TableRow.ewInit k enabled initial length,
      PortOfWord.ewInit k enabled initial length⟩
  | ewReset k value => exact ⟨RoundTrip.ewReset k value, TableRow.ewReset k value, PortOfWord.ewReset k value⟩
  | ewUpdate k enabled sample deadBand maxError =>
    exact ⟨RoundTrip.ewUpdate k enabled sample deadBand maxError, TableRow.ewUpdate k enabled sample deadBand maxError,
      PortOfWord.ewUpdate k enabled sample deadBand maxError⟩
  | evAdc raw => exact ⟨RoundTrip.evAdc raw, TableRow.evAdc raw, PortOfWord.evAdc raw⟩
  | evRise ch time => exact ⟨RoundTrip.evRise ch time, TableRow.evRise ch time, PortOfWord.evRise ch time⟩
  | evFall ch time => exact ⟨RoundTrip.evFall ch time, TableRow.evFall ch time, PortOfWord.evFall ch time⟩
  | evPin k level => exact ⟨RoundTrip.evPin k level, TableRow.evPin k level, PortOfWord.evPin k level⟩

/-- Settles O1: the round trip of each constructor. -/
theorem decodeEncodeRoundTrip : Obligations.DecodeEncodeRoundTrip :=
  fun i => (encoding_laws i).1

theorem selects_iff (r : OpcodeRow) (w : Word) : r.selects w = true ↔ w &&& r.mask = r.pattern := beq_iff_eq

theorem selLegal_iff (r : OpcodeRow) (w : Word) : r.selLegal w = true ↔ w.toNat / 4 % 4 ∈ r.sels :=
  List.contains_iff_mem

/-- Settles O5: the row and the port of each operation's word. -/
theorem everyOperationHasItsRowAndPort : Obligations.EveryOperationHasItsRowAndPort := by
  intro i
  obtain ⟨_, ⟨r, hr, hname, hsel, hlegal⟩, _, hport⟩ := encoding_laws i
  exact ⟨⟨r, hr, hname, (selects_iff r _).mp hsel, (selLegal_iff r _).mp hlegal⟩, hport⟩

/-- Settles O6: each word, evaluated. -/
theorem sampleWordsDecode : Obligations.SampleWordsDecode :=
  ⟨rfl, rfl, rfl, rfl, rfl, rfl, rfl, rfl, rfl, rfl⟩

end Sys2Proof
end

section
/-! ### The result word, and words that are no operation on their port (R94, R97 to R99) -/
namespace Sys2Proof.Machine

/-- Settles O7: the laws of the result word. -/
theorem resultWordSeparatesReadyFromNotReady : Obligations.ResultWordSeparatesReadyFromNotReady :=
  ⟨fun v => ⟨resNotReady_readyWord v, resValue_readyWord v, readyWord_ne_notReady v⟩, resNotReady_notReady⟩

/-- A word that is no operation, its port asked before an illegal selector, is reserved there (R98, R99). -/
theorem classify_error {p : Port} {w : OpWord} {e : DecodeError} (hd : decode w = .error e)
    (hsel : e = .illegalSelector → portAcceptsUnit p w.cw = true) : classify p w = .reserved p := by
  rcases classify_cases p w with ⟨_, hi, _⟩ | ⟨_, hi, _⟩ | ⟨_, _, _, h⟩ | ⟨he, hport, _⟩
  · simp [hd] at hi
  · simp [hd] at hi
  · exact h
  · have : e = .illegalSelector := by simpa [hd] using he
    simp [hsel this] at hport

/-- An illegal selector on the port that does not accept the word is not looked at (R97). -/
theorem classify_illegalSelector_misplaced {p : Port} {w : OpWord} (hd : decode w = .error .illegalSelector)
    (hp : portAcceptsUnit p w.cw = false) : classify p w = .wrongPort := by
  simp [classify, hd, hp]

theorem classify_misplaced {p : Port} {w : OpWord} {i : Instr} (hd : decode w = .ok i) (hp : i.port ≠ p) :
    classify p w = .wrongPort := by
  simp [classify, hd, hp]

/-- A reserved word on the command port writes NOT_READY to RES, unless a control cycle runs (R99, R218). -/
theorem reservedWord_command (s : State) :
    reservedWord .command s = if s.cseq = 0 then { s with res := 0x1FFFF#17 } else s := by
  rcases acceptCommand_cases s (setRes · notReady) with ⟨hs, h⟩ | ⟨hs, h⟩
  · exact h.trans (if_neg hs).symm
  · exact h.trans (if_pos hs).symm

theorem step_reserved {s : State} {p : Port} {w : OpWord} {rest : List Input} (hin : s.inputs = .word p w :: rest)
    (hc : classify p w = .reserved p) : step s = .next (reservedWord p { s with inputs := rest }) := by
  rw [step, nextActivity_word hin, hc, ← taken_eq hin]

theorem step_wrongPort {s : State} {p : Port} {w : OpWord} {rest : List Input} (hin : s.inputs = .word p w :: rest)
    (hc : classify p w = .wrongPort) : step s = .next { s with inputs := rest } := by
  rw [step, nextActivity_word hin, hc, ← taken_eq hin]

/-- Settles O9: what each such word classifies as, and what the step then does. -/
theorem reservedAndMisplacedWordsDoNothing : Obligations.ReservedAndMisplacedWordsDoNothing := by
  refine ⟨fun s p w rest e hin hd hsel => ?_, fun s p w rest hin hd hp => ?_, fun s p w rest i hin hd hp => ?_⟩
  · rw [step_reserved hin (classify_error hd hsel)]
    cases p with
    | command => rw [reservedWord_command]
    | event => rfl
  · exact step_wrongPort hin (classify_illegalSelector_misplaced hd hp)
  · exact step_wrongPort hin (classify_misplaced hd hp)

end Sys2Proof.Machine
end

section
/-! ### The rows of the opcode table (R96, R97)

A row fixes UNIT, FUNC, Z1 and Z0 of a word, and of SEL and FLG those it has no use for; no two rows have UNIT and FUNC
in common. -/
namespace Sys2Proof

/-- UNIT and FUNC of a row. -/
def OpcodeRow.opcode (r : OpcodeRow) : Nat × Nat := (unitOf r.pattern, funcOf r.pattern)

theorem opcodes_nodup : (opcodeTable.map OpcodeRow.opcode).Nodup := by decide

theorem row_mask_high : ∀ r ∈ opcodeTable, r.mask.toNat / 16 = 0xFFF := by decide

theorem row_pattern_low : ∀ r ∈ opcodeTable, z1Of r.pattern = 0 ∧ r.pattern.toNat % 16 = 0 := by decide

theorem row_mask_z0 : ∀ r ∈ opcodeTable, ∀ n < 16, n &&& r.mask.toNat % 16 = 0 → n / 2 % 2 = 0 := by decide

/-- A mask with all twelve high bits compares those, and masks the low four. -/
theorem masked_eq_iff {w m p : Word} (hm : m.toNat / 16 = 0xFFF) :
    w &&& m = p ↔ w.toNat / 16 = p.toNat / 16 ∧ w.toNat % 16 &&& m.toNat % 16 = p.toNat % 16 := by
  have hlt := w.isLt
  have hhigh : (w.toNat &&& m.toNat) / 16 = w.toNat / 16 := by
    rw [Nat.and_div_two_pow (n := 4), hm, Nat.and_two_pow_sub_one_eq_mod _ 12]
    omega
  have hlow : (w.toNat &&& m.toNat) % 16 = w.toNat % 16 &&& m.toNat % 16 := Nat.and_mod_two_pow (n := 4)
  rw [← BitVec.toNat_inj, BitVec.toNat_and, ← hlow]
  omega

/-- What a row asks of a word, field by field. -/
theorem row_selects_iff {r : OpcodeRow} (hr : r ∈ opcodeTable) (w : Word) :
    w &&& r.mask = r.pattern ↔
      r.opcode = (unitOf w, funcOf w) ∧ z1Of w = 0 ∧ w.toNat % 16 &&& r.mask.toNat % 16 = 0 := by
  obtain ⟨hz1, hlow⟩ := row_pattern_low r hr
  rw [masked_eq_iff (row_mask_high r hr), hlow, OpcodeRow.opcode, Prod.mk.injEq]
  simp only [unitOf, funcOf, z1Of] at hz1 ⊢
  omega

/-- Settles O4: a word selects only the row of its own UNIT and FUNC. -/
theorem opcodeRowsAreDisjoint : Obligations.OpcodeRowsAreDisjoint :=
  (List.pairwise_map.mp opcodes_nodup).imp_of_mem fun hr hr' hne w ⟨h, h'⟩ =>
    hne (((row_selects_iff hr w).mp h).1.trans ((row_selects_iff hr' w).mp h').1.symm)

/-- Only the row with a word's own UNIT and FUNC can be selected by it. -/
theorem exists_selected_iff {r : OpcodeRow} {w : Word} (hr : r ∈ opcodeTable) (hop : r.opcode = (unitOf w, funcOf w))
    (P : OpcodeRow → Prop) : (∃ q ∈ opcodeTable, w &&& q.mask = q.pattern ∧ P q) ↔ w &&& r.mask = r.pattern ∧ P r := by
  refine ⟨fun ⟨q, hq, hsel, hP⟩ => ?_, fun h => ⟨r, hr, h⟩⟩
  have hqr : q = r :=
    List.inj_on_of_nodup_map opcodes_nodup hq hr (((row_selects_iff hq w).mp hsel).1.trans hop.symm)
  exact hqr ▸ ⟨hsel, hP⟩

theorem nibble_and_mask : ∀ n < 16, n / 2 % 2 = 0 →
    (n &&& 0xF = 0 ↔ n / 4 = 0 ∧ n % 2 = 0) ∧ (n &&& 0xE = 0 ↔ n / 4 = 0) ∧ (n &&& 0x3 = 0 ↔ n % 2 = 0) ∧
    n &&& 0x2 = 0 := by decide

/-- What the low nibbles of the four masks of R96 ask of a word with Z0 = 0. -/
theorem low_nibble_iff {w : Word} (hz0 : z0Of w = 0) :
    (w.toNat % 16 &&& 0xF = 0 ↔ selOf w = 0 ∧ flgOf w = false) ∧ (w.toNat % 16 &&& 0xE = 0 ↔ selOf w = 0) ∧
    (w.toNat % 16 &&& 0x3 = 0 ↔ flgOf w = false) ∧ w.toNat % 16 &&& 0x2 = 0 := by
  have hsel : selOf w = w.toNat % 16 / 4 := by simp only [selOf]; omega
  have hflg : flgOf w = false ↔ w.toNat % 16 % 2 = 0 := by simp only [flgOf, beq_eq_false_iff_ne]; omega
  rw [hsel, hflg]
  exact nibble_and_mask _ (Nat.mod_lt _ (by decide)) (by simp only [z0Of] at hz0; omega)

/-- Every row asks for Z1 = Z0 = 0. -/
theorem z1_z0_of_selects {r : OpcodeRow} (hr : r ∈ opcodeTable) {w : Word} (h : w &&& r.mask = r.pattern) :
    z1Of w = 0 ∧ z0Of w = 0 := by
  obtain ⟨_, hz1, hlow⟩ := (row_selects_iff hr w).mp h
  have := row_mask_z0 r hr _ (Nat.mod_lt _ (by decide)) hlow
  exact ⟨hz1, by simp only [z0Of]; omega⟩

/-- A word with Z1 = Z0 = 0 is Format F of its other fields (R91). -/
theorem formatF_fields {w : Word} (hz1 : z1Of w = 0) (hz0 : z0Of w = 0) :
    formatF (unitOf w) (funcOf w) (selOf w) (flgOf w) = w := by
  have hlt := w.isLt
  have hflg : (flgOf w).toNat = w.toNat % 2 := by
    rcases Nat.mod_two_eq_zero_or_one w.toNat with h | h <;> simp [flgOf, h]
  apply BitVec.eq_of_toNat_eq
  rw [formatF, BitVec.toNat_ofNat, hflg]
  simp only [unitOf, funcOf, z1Of, selOf, z0Of] at hz1 hz0 ⊢
  omega

end Sys2Proof
end

section
/-! ### What each kind of row answers (R91, R98) -/
namespace Sys2Proof

/-- The decoder's answer `d` for a word that matches a row as `fits` says and meets its selector check as `legal` says
(R97, R98). -/
structure Answers (d : Except DecodeError Instr) (fits legal : Prop) : Prop where
  accepts : (∃ i, d = .ok i) ↔ fits ∧ legal
  illegal : d = .error .illegalSelector ↔ fits ∧ ¬ legal

variable {sel : Nat} {flg : Bool} {j : Instr}

theorem bareRow_ok {i : Instr} (h : bareRow i sel flg = .ok j) : sel = 0 ∧ flg = false ∧ i = j := by
  by_cases hs : sel = 0 <;> cases flg <;> simp_all [bareRow]

theorem bareRow_answers (i : Instr) (sel : Nat) (flg : Bool) :
    Answers (bareRow i sel flg) (sel = 0 ∧ flg = false) (sel ∈ [0]) := by
  by_cases hs : sel = 0 <;> cases flg <;> constructor <;> simp [bareRow, hs]

theorem flagRow_ok {f : Bool → Instr} (h : flagRow f sel flg = .ok j) : sel = 0 ∧ f flg = j := by
  by_cases hs : sel = 0 <;> simp_all [flagRow]

theorem flagRow_answers (f : Bool → Instr) (sel : Nat) (flg : Bool) :
    Answers (flagRow f sel flg) (sel = 0) (sel ∈ [0]) := by
  by_cases hs : sel = 0 <;> constructor <;> simp [flagRow, hs]

theorem channelFlagRow_ok {f : Channel → Bool → Instr} (h : channelFlagRow f sel flg = .ok j) :
    ∃ k : Channel, k.sel = sel ∧ f k flg = j := by
  match sel with
  | 0 => exact ⟨.ch0, rfl, Except.ok.inj h⟩
  | 1 => exact ⟨.ch1, rfl, Except.ok.inj h⟩
  | _ + 2 => cases h

theorem channelFlagRow_answers (f : Channel → Bool → Instr) (sel : Nat) (flg : Bool) :
    Answers (channelFlagRow f sel flg) True (sel ∈ [0, 1]) := by
  match sel with
  | 0 | 1 | _ + 2 => constructor <;> simp [channelFlagRow, channelOfSel]

/-- With FLG = 0 a row without flag is one that ignores it. -/
theorem channelRow_false (f : Channel → Instr) (sel : Nat) :
    channelRow f sel false = channelFlagRow (fun k _ => f k) sel false := rfl

theorem channelRow_ok {f : Channel → Instr} (h : channelRow f sel flg = .ok j) :
    flg = false ∧ ∃ k : Channel, k.sel = sel ∧ f k = j := by
  cases flg with
  | false => exact ⟨rfl, channelFlagRow_ok (channelRow_false f sel ▸ h)⟩
  | true => cases h

theorem channelRow_answers (f : Channel → Instr) (sel : Nat) (flg : Bool) :
    Answers (channelRow f sel flg) (flg = false) (sel ∈ [0, 1]) := by
  cases flg with
  | false => simpa [channelRow_false] using channelFlagRow_answers (fun k _ => f k) sel false
  | true => constructor <;> simp [channelRow]

theorem adcChannelRow_ok {f : AdcChannel → Instr} (h : adcChannelRow f sel flg = .ok j) :
    flg = false ∧ ∃ c : AdcChannel, c.sel = sel ∧ f c = j := by
  cases flg with
  | true => cases h
  | false =>
    match sel with
    | 0 => exact ⟨rfl, .bandSelect1, rfl, Except.ok.inj h⟩
    | 1 => exact ⟨rfl, .bandSelect2, rfl, Except.ok.inj h⟩
    | 2 => exact ⟨rfl, .powerLimit, rfl, Except.ok.inj h⟩
    | _ + 3 => cases h

theorem adcChannelRow_answers (f : AdcChannel → Instr) (sel : Nat) (flg : Bool) :
    Answers (adcChannelRow f sel flg) (flg = false) (sel ∈ [0, 1, 2]) := by
  cases flg with
  | true => constructor <;> simp [adcChannelRow]
  | false =>
    match sel with
    | 0 | 1 | 2 | _ + 3 => constructor <;> simp [adcChannelRow, adcChannelOfSel]

end Sys2Proof
end

section
/-! ### The arms of the decoder: each pair of UNIT and FUNC is a row of one of five kinds, or reserved (R95 to R99) -/
namespace Sys2Proof

/-- `i` has the operation word `cw`, the operands it reads are those presented in `w`, and its others are encoded 0. -/
structure Carries (w : OpWord) (i : Instr) (cw : Word) : Prop where
  cw : encodeCw i = cw
  opa : encodeOpa i = if 1 ≤ Statements.operandCount i then w.opa else 0
  opb : encodeOpb i = if 2 ≤ Statements.operandCount i then w.opb else 0
  opc : encodeOpc i = if 3 ≤ Statements.operandCount i then w.opc else 0

/-- The table has a row with this UNIT and FUNC, mask and list of selectors. -/
abbrev HasRow (unit func : Nat) (mask : Word) (sels : List Nat) : Prop :=
  ∃ r ∈ opcodeTable, r.opcode = (unit, func) ∧ r.mask = mask ∧ r.sels = sels

/-- An answer of the decoder at UNIT `unit` and FUNC `func`: that of a kind of row which the table has there and
whose operations carry the fields decoded, or a rejection where it has none. -/
inductive DecoderArm (w : OpWord) (unit func sel : Nat) (flg : Bool) : Except DecodeError Instr → Prop
  | bare {i : Instr} (row : HasRow unit func 0xFFFF [0]) (carries : Carries w i (formatF unit func 0 false)) :
    DecoderArm w unit func sel flg (bareRow i sel flg)
  | flag {f : Bool → Instr} (row : HasRow unit func 0xFFFE [0])
      (carries : ∀ b, Carries w (f b) (formatF unit func 0 b)) :
    DecoderArm w unit func sel flg (flagRow f sel flg)
  | channelFlag {f : Channel → Bool → Instr} (row : HasRow unit func 0xFFF2 [0, 1])
      (carries : ∀ k b, Carries w (f k b) (formatF unit func k.sel b)) :
    DecoderArm w unit func sel flg (channelFlagRow f sel flg)
  | channel {f : Channel → Instr} (row : HasRow unit func 0xFFF3 [0, 1])
      (carries : ∀ k, Carries w (f k) (formatF unit func k.sel false)) :
    DecoderArm w unit func sel flg (channelRow f sel flg)
  | adcChannel {f : AdcChannel → Instr} (row : HasRow unit func 0xFFF3 [0, 1, 2])
      (carries : ∀ c, Carries w (f c) (formatF unit func c.sel false)) :
    DecoderArm w unit func sel flg (adcChannelRow f sel flg)
  | reserved {e : DecodeError} (notSelector : e ≠ .illegalSelector)
      (noRow : ∀ r ∈ opcodeTable, r.opcode ≠ (unit, func)) : DecoderArm w unit func sel flg (.error e)

/-- How many FUNC codes a unit uses (R95, R96). -/
def funcCount : Nat → Nat
  | 0x0 => 3
  | 0x1 => 2
  | 0x2 => 3
  | 0x3 => 7
  | 0x4 => 3
  | 0xE => 4
  | _ => 0

theorem row_func_lt : ∀ r ∈ opcodeTable, r.opcode.2 < funcCount r.opcode.1 := by decide

theorem no_row {unit func : Nat} (h : funcCount unit ≤ func) : ∀ r ∈ opcodeTable, r.opcode ≠ (unit, func) := by
  intro r hr hop
  have := row_func_lt r hr
  rw [hop] at this
  exact absurd this (Nat.not_lt.mpr h)

variable (w : OpWord) (sel : Nat) (flg : Bool)

theorem decodeSys_arm : ∀ func, DecoderArm w 0x0 func sel flg (decodeSys func sel flg)
  | 0 => .bare (by decide) ⟨rfl, rfl, rfl, rfl⟩
  | 1 => .bare (by decide) ⟨rfl, rfl, rfl, rfl⟩
  | 2 => .bare (by decide) ⟨rfl, rfl, rfl, rfl⟩
  | _ + 3 => .reserved nofun (no_row (Nat.le_add_left _ _))

theorem decodeAdc_arm : ∀ func, DecoderArm w 0x1 func sel flg (decodeAdc func sel flg)
  | 0 => .flag (by decide) fun _ => ⟨rfl, rfl, rfl, rfl⟩
  | 1 => .adcChannel (by decide) fun _ => ⟨rfl, rfl, rfl, rfl⟩
  | _ + 2 => .reserved nofun (no_row (Nat.le_add_left _ _))

theorem decodeCap_arm : ∀ func, DecoderArm w 0x2 func sel flg (decodeCap func sel flg)
  | 0 => .channel (by decide) fun _ => ⟨rfl, rfl, rfl, rfl⟩
  | 1 => .channel (by decide) fun _ => ⟨rfl, rfl, rfl, rfl⟩
  | 2 => .channel (by decide) fun _ => ⟨rfl, rfl, rfl, rfl⟩
  | _ + 3 => .reserved nofun (no_row (Nat.le_add_left _ _))

theorem decodeCnd_arm : ∀ func, DecoderArm w 0x3 func sel flg (decodeCnd w func sel flg)
  | 0 => .adcChannel (by decide) fun _ => ⟨rfl, rfl, rfl, rfl⟩
  | 1 => .channel (by decide) fun _ => ⟨rfl, rfl, rfl, rfl⟩
  | 2 => .channelFlag (by decide) fun _ _ => ⟨rfl, rfl, rfl, rfl⟩
  | 3 => .channel (by decide) fun _ => ⟨rfl, rfl, rfl, rfl⟩
  | 4 => .channel (by decide) fun _ => ⟨rfl, rfl, rfl, rfl⟩
  | 5 => .channel (by decide) fun _ => ⟨rfl, rfl, rfl, rfl⟩
  | 6 => .channel (by decide) fun _ => ⟨rfl, rfl, rfl, rfl⟩
  | _ + 7 => .reserved nofun (no_row (Nat.le_add_left _ _))

theorem decodeEw_arm : ∀ func, DecoderArm w 0x4 func sel flg (decodeEw w func sel flg)
  | 0 => .channelFlag (f := fun k e => .ewInit k e w.opa w.opb) (by decide) fun _ _ => ⟨rfl, rfl, rfl, rfl⟩
  | 1 => .channel (by decide) fun _ => ⟨rfl, rfl, rfl, rfl⟩
  | 2 => .channelFlag (f := fun k e => .ewUpdate k e w.opa w.opb w.opc) (by decide) fun _ _ => ⟨rfl, rfl, rfl, rfl⟩
  | _ + 3 => .reserved nofun (no_row (Nat.le_add_left _ _))

theorem decodeEvt_arm : ∀ func, DecoderArm w 0xE func sel flg (decodeEvt w func sel flg)
  | 0 => .bare (by decide) ⟨rfl, rfl, rfl, rfl⟩
  | 1 => .channel (by decide) fun _ => ⟨rfl, rfl, rfl, rfl⟩
  | 2 => .channel (by decide) fun _ => ⟨rfl, rfl, rfl, rfl⟩
  | 3 => .channelFlag (by decide) fun _ _ => ⟨rfl, rfl, rfl, rfl⟩
  | _ + 4 => .reserved nofun (no_row (Nat.le_add_left _ _))

theorem decodeUnit_arm (unit func : Nat) : DecoderArm w unit func sel flg (decodeUnit w unit func sel flg) := by
  unfold decodeUnit
  split
  · exact decodeSys_arm w sel flg func
  · exact decodeAdc_arm w sel flg func
  · exact decodeCap_arm w sel flg func
  · exact decodeCnd_arm w sel flg func
  · exact decodeEw_arm w sel flg func
  · exact decodeEvt_arm w sel flg func
  · exact .reserved nofun (no_row (by simp [funcCount]))

end Sys2Proof
end

section
/-! ### What the decoder accepts, and what it rejects for its selector (R97 to R99) -/
namespace Sys2Proof

/-- A decoded operation carries the fields it was decoded from. -/
theorem DecoderArm.carries {w : OpWord} {unit func sel : Nat} {flg : Bool} {d : Except DecodeError Instr}
    (h : DecoderArm w unit func sel flg d) {i : Instr} (hd : d = .ok i) : Carries w i (formatF unit func sel flg) := by
  cases h with
  | bare _ hc => obtain ⟨rfl, rfl, rfl⟩ := bareRow_ok hd; exact hc
  | flag _ hc => obtain ⟨rfl, rfl⟩ := flagRow_ok hd; exact hc flg
  | channelFlag _ hc => obtain ⟨k, rfl, rfl⟩ := channelFlagRow_ok hd; exact hc k flg
  | channel _ hc => obtain ⟨rfl, k, rfl, rfl⟩ := channelRow_ok hd; exact hc k
  | adcChannel _ hc => obtain ⟨rfl, c, rfl, rfl⟩ := adcChannelRow_ok hd; exact hc c
  | reserved => cases hd

/-- `decode` rejects a word with Z1 or Z0 set, and answers by the arm of its UNIT and FUNC otherwise. -/
theorem decode_cases (w : OpWord) :
    (z1Of w.cw = 0 ∧ z0Of w.cw = 0 ∧
      DecoderArm w (unitOf w.cw) (funcOf w.cw) (selOf w.cw) (flgOf w.cw) (decode w)) ∨
    (¬ (z1Of w.cw = 0 ∧ z0Of w.cw = 0) ∧ ∃ e ≠ DecodeError.illegalSelector, decode w = .error e) := by
  unfold decode
  split
  · next h => exact .inr ⟨fun hz => h hz.1, _, by decide, rfl⟩
  · next hz1 =>
    split
    · next h => exact .inr ⟨fun hz => h hz.2, _, by decide, rfl⟩
    · next hz0 => exact .inl ⟨not_not.mp hz1, not_not.mp hz0, decodeUnit_arm w _ _ _ _⟩

/-- Settles O2: only a word with Z1 = Z0 = 0 decodes, and its other fields are carried by the operation. -/
theorem decodedWordIsTheEncodedWord : Obligations.DecodedWordIsTheEncodedWord := by
  intro w i hd
  rcases decode_cases w with ⟨hz1, hz0, harm⟩ | ⟨_, e, _, he⟩
  · obtain ⟨hcw, hopa, hopb, hopc⟩ := harm.carries hd
    exact ⟨hcw.trans (formatF_fields hz1 hz0), hopa, hopb, hopc⟩
  · rw [hd] at he
    cases he

/-- The answer `d` to the word `w` is the one the table gives: accepted by a row with a legal selector, rejected for its
selector by a row without it. -/
def AnswersTable (w : Word) (d : Except DecodeError Instr) : Prop :=
  ((∃ i, d = .ok i) ↔ ∃ r ∈ opcodeTable, w &&& r.mask = r.pattern ∧ selOf w ∈ r.sels) ∧
  (d = .error .illegalSelector ↔ ∃ r ∈ opcodeTable, w &&& r.mask = r.pattern ∧ selOf w ∉ r.sels)

theorem answersTable_of_no_row {w : Word} (h : ∀ r ∈ opcodeTable, w &&& r.mask ≠ r.pattern) {e : DecodeError}
    (he : e ≠ .illegalSelector) : AnswersTable w (.error e) := by
  refine ⟨iff_of_false nofun ?_, iff_of_false (fun h => he (Except.error.inj h)) ?_⟩ <;>
    exact fun ⟨r, hr, hsel, _⟩ => h r hr hsel

/-- With Z1 = 0 the one row that can match is that of UNIT and FUNC, and whether it does is up to the low nibble. -/
theorem answersTable_of_row {w : Word} {mask : Word} {sels : List Nat} {d : Except DecodeError Instr} {fits : Prop}
    (row : HasRow (unitOf w) (funcOf w) mask sels) (hz1 : z1Of w = 0)
    (hfits : w.toNat % 16 &&& mask.toNat % 16 = 0 ↔ fits) (h : Answers d fits (selOf w ∈ sels)) :
    AnswersTable w d := by
  obtain ⟨r, hr, hop, rfl, rfl⟩ := row
  have hsel : w &&& r.mask = r.pattern ↔ fits := by
    rw [row_selects_iff hr, ← hfits]
    exact ⟨fun ⟨_, _, hlow⟩ => hlow, fun hlow => ⟨hop, hz1, hlow⟩⟩
  constructor
  · rw [exists_selected_iff hr hop, hsel]; exact h.accepts
  · rw [exists_selected_iff hr hop, hsel]; exact h.illegal

theorem DecoderArm.answersTable {w : OpWord} {d : Except DecodeError Instr}
    (h : DecoderArm w (unitOf w.cw) (funcOf w.cw) (selOf w.cw) (flgOf w.cw) d) (hz1 : z1Of w.cw = 0)
    (hz0 : z0Of w.cw = 0) : AnswersTable w.cw d := by
  obtain ⟨hF, hE, h3, h2⟩ := low_nibble_iff hz0
  cases h with
  | bare row => exact answersTable_of_row row hz1 hF (bareRow_answers _ _ _)
  | flag row => exact answersTable_of_row row hz1 hE (flagRow_answers _ _ _)
  | channelFlag row => exact answersTable_of_row row hz1 (iff_true_intro h2) (channelFlagRow_answers _ _ _)
  | channel row => exact answersTable_of_row row hz1 h3 (channelRow_answers _ _ _)
  | adcChannel row => exact answersTable_of_row row hz1 h3 (adcChannelRow_answers _ _ _)
  | reserved he hno => exact answersTable_of_no_row (fun r hr hsel => hno r hr ((row_selects_iff hr _).mp hsel).1) he

/-- Settles O3: the arm of a word with Z1 = Z0 = 0 answers as the table does, and no row selects another word. -/
theorem decodeAcceptsExactlyTheLegalWords : Obligations.DecodeAcceptsExactlyTheLegalWords := by
  intro w
  rcases decode_cases w with ⟨hz1, hz0, harm⟩ | ⟨hz, e, hne, he⟩
  · exact harm.answersTable hz1 hz0
  · rw [he]
    exact answersTable_of_no_row (fun r hr hsel => hz (z1_z0_of_selects hr hsel)) hne

end Sys2Proof
end

section
/-! ### Commands on the port, and sequences of operations (R66, R218) -/
namespace Sys2Proof.Machine

open Sys2Proof.Safety

/-- A command other than NOP and USTEP, in any state: dropped while a control cycle runs, else performed with its
result. -/
theorem exec_command {i : Instr} (hp : i.port = .command) (hu : i ≠ .ustep) (hn : i ≠ .nop) (s : State) :
    exec i s = .next (if s.cseq ≠ 0 then s else setRes (effectOf i s) (resultOf i s)) := by
  split
  · next hs => exact exec_command_busy hp hu hn hs
  · next hs => exact exec_command_idle hp hu (not_not.mp hs)

/-- One more operation at the end of a sequence goes on from the state the sequence answers. -/
theorem runOps_snoc {is : List Instr} {i : Instr} {s t u : State} (his : runOps is s = some t)
    (hi : exec i t = .next u) : runOps (is ++ [i]) s = some u := by
  induction is generalizing s with
  | nil => cases his; exact runOps_one hi
  | cons j is ih =>
    rw [runOps] at his
    rw [List.cons_append, runOps]
    cases h : nextOf (exec j s) with
    | none => rw [h] at his; cases his
    | some s' => rw [h] at his; exact ih his

end Sys2Proof.Machine
end

section
/-! ### The means of a grid (R124) -/
namespace Sys2Proof.Machine

open Sys2Proof.Safety

/-- The sum of four words shifted right by 2 fits a word, so `Grid.mean` is exact on every grid, not only on 10-bit
samples. -/
theorem Grid.mean_eq_quarter (g : Grid) (c : Nat) : (g.mean c).toNat = Statements.columnSum g c / 4 := by
  have h0 := (g.read 0 c).isLt
  have h1 := (g.read 1 c).isLt
  have h2 := (g.read 2 c).isLt
  have h3 := (g.read 3 c).isLt
  simp only [Grid.mean, Statements.columnSum, Nat.shiftRight_eq_div_pow, BitVec.toNat_ofNat]
  omega

theorem columnSum_le {g : Grid} (h : GridWf g) (c : Nat) : Statements.columnSum g c ≤ 4092 := by
  have h0 := h 0 c
  have h1 := h 1 c
  have h2 := h 2 c
  have h3 := h 3 c
  unfold Statements.columnSum
  omega

/-- Settles O23: the mean is exact on every grid, and the bounds are those of four 10-bit samples. -/
theorem meanIsTheTruncatedQuarterOfTheSum : Obligations.MeanIsTheTruncatedQuarterOfTheSum := by
  intro g c h
  rw [Grid.means_get]
  exact ⟨columnSum_le h _, Grid.mean_eq_quarter g _, Nat.le_of_lt_succ (Grid.mean_lt h _)⟩

end Sys2Proof.Machine
end

section
/-! ### The commands of the ADC engine, and BOOT (R121, R122, R221) -/
namespace Sys2Proof.Machine

open Sys2Proof.Safety

/-- Settles O20, by the two cases of `adcStart`. -/
theorem adcStartRestartsOrKeepsAlive : Obligations.AdcStartRestartsOrKeepsAlive := by
  refine ⟨rfl, rfl, Grid.read_zero, fun force s => ?_⟩
  rw [exec_command (i := .adcStart force) rfl nofun nofun, effectOf]
  rcases adcStart_cases force s with ⟨hrun, hforce, e⟩ | ⟨hrestart, e⟩ <;> rw [e]
  · rw [if_pos (c := s.adc.inProg = true ∧ force = false) ⟨hrun, hforce⟩]
    rfl
  · rw [if_neg (c := s.adc.inProg = true ∧ force = false) (by rcases hrestart with h | h <;> simp [h])]
    rfl

/-- What ADC_READ returns, in the words of R122. -/
theorem adcReadResult_eq (c : AdcChannel) (s : State) :
    adcReadResult c s =
      if s.adc.inProg = true ∨ s.adc.pubv = false then notReady else readyWord (s.adc.pub.get c) := by
  split
  · next h =>
    rcases h with hrun | hpub
    · exact adcReadResult_running hrun c
    · exact adcReadResult_unpublished hpub c
  · next h =>
    obtain ⟨hrun, hpub⟩ := not_or.mp h
    exact adcReadResult_published (eq_false_of_ne_true hrun) (eq_true_of_ne_false hpub) c

/-- The word 0x110C selects the row of ADC_READ, which has no SEL 3 (R96, R98). -/
theorem selector_of_110C_illegal :
    ∃ r ∈ opcodeTable, (0x110C : Word) &&& r.mask = r.pattern ∧ (0x110C : Word).toNat / 4 % 4 ∉ r.sels := by
  decide

/-- Settles O21: the three words, the selector the table of R96 does not have, and a command whose whole effect is
its result. -/
theorem adcReadReturnsTheMeanOrNotReady : Obligations.AdcReadReturnsTheMeanOrNotReady := by
  refine ⟨rfl, rfl, rfl, fun a b c => ?_, fun c s => ?_⟩
  · obtain ⟨_, hillegal⟩ := decodeAcceptsExactlyTheLegalWords ⟨0x110C, a, b, c⟩
    exact hillegal.mpr selector_of_110C_illegal
  · rw [exec_command (i := .adcRead c) rfl nofun nofun, resultOf, adcReadResult_eq]
    rfl

/-- Settles O18: three commands, each accepted because none of them starts a control cycle. -/
theorem bootStartsTheEngines : Obligations.BootStartsTheEngines := by
  unfold Obligations.BootStartsTheEngines
  rw [runOps_cons (exec_command_idle (i := .adcStart true) rfl nofun rfl),
    runOps_cons (exec_command_idle (i := .capStart .ch0) rfl nofun rfl),
    runOps_one (exec_command_idle (i := .capStart .ch1) rfl nofun rfl)]
  rfl

end Sys2Proof.Machine
end

section
/-! ### One conversion (R123) -/
namespace Sys2Proof.Machine

open Sys2Proof.Safety

theorem maskSample_eq (raw : Word) : maskSample raw = BitVec.ofNat 16 (raw.toNat % 1024) := by
  apply BitVec.eq_of_toNat_eq
  rw [maskSample_toNat, BitVec.toNat_ofNat]
  omega

/-- The place of the last sample, as numbers. -/
theorem lastPlace_iff (a : AdcUnit) : a.round = 3 ∧ a.chan = 2 ↔ a.round.toNat = 3 ∧ a.chan.toNat = 2 := by
  simp only [← BitVec.toNat_inj]
  rfl

section
variable {a : AdcUnit} (hr : a.round.toNat < 4) (hc : a.chan.toNat < 3)
include hr hc

/-- A stored sample is in the cell the indices name, and every other cell is as before. -/
theorem storeSample_read (raw : Word) (r c : Nat) :
    (storeSample a raw).read r c =
      if r = a.round.toNat ∧ c = a.chan.toNat then BitVec.ofNat 16 (raw.toNat % 1024) else a.grid.read r c := by
  rw [storeSample, Grid.read_write, maskSample_eq]
  simp only [hr, hc, and_true]

/-- The indices advance by one place, in the order (0,0), (0,1), (0,2), (1,0), … -/
theorem nextPlace :
    (nextChan a).toNat < 3 ∧
      3 * (nextRound a).toNat + (nextChan a).toNat = 3 * a.round.toNat + a.chan.toNat + 1 := by
  rcases nextIndices hr hc with ⟨_, _, _⟩ | ⟨_, _, hround⟩
  · omega
  · rw [hround]; omega

/-- The round index reaches 4 at the place (3, 2) alone. -/
theorem nextRound_eq_four_iff : nextRound a = 4 ↔ a.round = 3 ∧ a.chan = 2 := by
  obtain ⟨_, hplace⟩ := nextPlace hr hc
  rw [lastPlace_iff, ← BitVec.toNat_inj, show (4 : BitVec 3).toNat = 4 from rfl]
  omega

end

/-- Settles O22, by the three cases of `conversionComplete`. -/
theorem conversionStoresOrPublishes : Obligations.ConversionStoresOrPublishes := by
  refine ⟨rfl, fun raw s hidle => ?_, fun raw s hrun hr hc => ⟨conversionComplete raw s, rfl, ?_⟩⟩
  · have e : conversionComplete raw s = s := by simp [conversionComplete, hidle]
    exact congrArg Host.Outcome.next e
  obtain ⟨hchan, hplace⟩ := nextPlace hr hc
  have h4 := nextRound_eq_four_iff hr hc
  rcases conversionComplete_cases raw s with ⟨hidle, _⟩ | ⟨_, hlast, e⟩ | ⟨_, hmore, e⟩
  · rw [hrun] at hidle
    cases hidle
  · rw [e, if_pos (h4.mp hlast)]
    have hchan0 : nextChan s.adc = 0 := by
      have hround : (nextRound s.adc).toNat = 4 := congrArg BitVec.toNat hlast
      have ⟨h3, h2⟩ := (lastPlace_iff s.adc).mp (h4.mp hlast)
      exact BitVec.eq_of_toNat_eq (show (nextChan s.adc).toNat = 0 by omega)
    refine ⟨storeSample_read hr hc raw, rfl, hlast, hchan0, rfl, rfl, fun c => ?_⟩
    rw [setAdc_adc, Grid.means_get]
    exact Grid.mean_eq_quarter _ _
  · rw [e, if_neg (mt h4.mpr hmore)]
    exact ⟨storeSample_read hr hc raw, rfl, hrun, rfl, rfl, hchan, hplace⟩

end Sys2Proof.Machine
end

section
/-! ### A whole batch (R125, R127)

After `n` conversions, `n < 12`, the batch is `Acquiring`; the twelfth makes it `Published`. Both steps are
`conversionStoresOrPublishes` at the place `(n / 3, n % 3)`. -/
namespace Sys2Proof.Machine

open Sys2Proof.Safety

/-- The first `n` raw results are in the grid, masked, in the order of their conversions. -/
def Stored (raw : Nat → Word) (n : Nat) (g : Grid) : Prop :=
  ∀ k < n, g.read (k / 3) (k % 3) = BitVec.ofNat 16 ((raw k).toNat % 1024)

/-- `t` is `n` conversions into a batch that was started from `s`. -/
structure Acquiring (raw : Nat → Word) (s : State) (n : Nat) (t : State) : Prop where
  idle : t.cseq = 0
  running : t.adc.inProg = true
  round : t.adc.round.toNat = n / 3
  chan : t.adc.chan.toNat = n % 3
  requests : t.pulses.length = s.pulses.length + (n + 1)
  stored : Stored raw n t.adc.grid

/-- `t` has completed a batch that was started from `s`. -/
structure Published (raw : Nat → Word) (s t : State) : Prop where
  idle : t.cseq = 0
  stopped : t.adc.inProg = false
  pubv : t.adc.pubv = true
  requests : t.pulses.length = s.pulses.length + 12
  stored : Stored raw 12 t.adc.grid
  means : ∀ c : AdcChannel, (t.adc.pub.get c).toNat = Statements.columnSum t.adc.grid c.sel / 4

section
variable {raw : Nat → Word} {s t : State} {n : Nat}

/-- A write of the `n`-th masked result at its place keeps the earlier ones. -/
theorem Stored.succ {g g' : Grid} (h : Stored raw n g)
    (hg : ∀ r c : Nat, g'.read r c =
      if r = n / 3 ∧ c = n % 3 then BitVec.ofNat 16 ((raw n).toNat % 1024) else g.read r c) :
    Stored raw (n + 1) g' := by
  intro k hk
  rw [hg]
  split
  · next hplace => rw [show k = n by omega]
  · next hplace =>
    have hne : k ≠ n := fun e => hplace (e ▸ ⟨rfl, rfl⟩)
    exact h k (by omega)

/-- The cells of a column in a full grid. -/
theorem Stored.column {g : Grid} (h : Stored raw 12 g) (c : AdcChannel) {r : Nat} (hr : r < 4) :
    (g.read r c.sel).toNat = (raw (c.sel + 3 * r)).toNat % 1024 := by
  have hc : c.sel < 3 := by cases c <;> decide
  have hcell := h (c.sel + 3 * r) (by omega)
  rw [show (c.sel + 3 * r) / 3 = r by omega, show (c.sel + 3 * r) % 3 = c.sel by omega] at hcell
  rw [hcell, BitVec.toNat_ofNat]
  omega

/-- A restart leaves a batch without conversions (R121). -/
theorem acquiring_restart {force : Bool} (hs : s.cseq = 0) (hrestart : force = true ∨ s.adc.inProg = false) :
    ∃ t, exec (.adcStart force) s = .next t ∧ Acquiring raw s 0 t := by
  refine ⟨_, exec_command_idle (i := .adcStart force) rfl nofun hs, ?_⟩
  rw [effectOf]
  rcases adcStart_cases force s with ⟨hrun, hforce, _⟩ | ⟨_, e⟩
  · simp [hrun, hforce] at hrestart
  · rw [e]
    exact ⟨hs, rfl, rfl, rfl, rfl, nofun⟩

/-- The next conversion takes the batch one place on, or completes it. -/
theorem Acquiring.conversion (h : Acquiring raw s n t) (hn : n < 12) :
    ∃ u, exec (.evAdc (raw n)) t = .next u ∧
      if n = 11 then Published raw s u else Acquiring raw s (n + 1) u := by
  obtain ⟨hidle, hrun, hround, hchan, hreq, hstored⟩ := h
  obtain ⟨_, _, hconv⟩ := conversionStoresOrPublishes
  obtain ⟨u, hu, hgrid, hrest⟩ := hconv (raw n) t hrun (by omega) (by omega)
  rw [hround, hchan] at hgrid
  have hlast : t.adc.round = 3 ∧ t.adc.chan = 2 ↔ n = 11 := by
    rw [lastPlace_iff]
    omega
  refine ⟨u, hu, ?_⟩
  split
  · next h11 =>
    rw [if_pos (hlast.mpr h11)] at hrest
    obtain ⟨hframe, _, _, hstopped, hpubv, hmeans⟩ := hrest
    subst h11
    exact ⟨by rw [hframe]; exact hidle, hstopped, hpubv, by rw [hframe]; exact hreq, hstored.succ hgrid, hmeans⟩
  · next h11 =>
    rw [if_neg (mt hlast.mp h11)] at hrest
    obtain ⟨hframe, hrun', _, _, hchan', hplace⟩ := hrest
    exact ⟨by rw [hframe]; exact hidle, hrun', by omega, by omega,
      by rw [hframe]; exact congrArg Nat.succ hreq, hstored.succ hgrid⟩

theorem batch_succ (force : Bool) (raw : Nat → Word) (n : Nat) :
    Statements.batch force raw (n + 1) = Statements.batch force raw n ++ [.evAdc (raw n)] := by
  simp [Statements.batch, List.range_succ]

/-- A restart and fewer than twelve conversions, by induction on the conversions. -/
theorem runOps_batch_acquiring {force : Bool} (hs : s.cseq = 0) (hrestart : force = true ∨ s.adc.inProg = false)
    (hn : n < 12) : ∃ t, runOps (Statements.batch force raw n) s = some t ∧ Acquiring raw s n t := by
  induction n with
  | zero =>
    obtain ⟨t, ht, h⟩ := acquiring_restart hs hrestart
    exact ⟨t, runOps_one ht, h⟩
  | succ n ih =>
    obtain ⟨t, ht, h⟩ := ih (by omega)
    obtain ⟨u, hu, h'⟩ := h.conversion (by omega)
    rw [if_neg (by omega)] at h'
    exact ⟨u, batch_succ force raw n ▸ runOps_snoc ht hu, h'⟩

/-- A restart and twelve conversions. -/
theorem runOps_batch_published {force : Bool} (hs : s.cseq = 0) (hrestart : force = true ∨ s.adc.inProg = false) :
    ∃ t, runOps (Statements.batch force raw 12) s = some t ∧ Published raw s t := by
  obtain ⟨t, ht, h⟩ := runOps_batch_acquiring (raw := raw) (n := 11) hs hrestart (by decide)
  obtain ⟨u, hu, h'⟩ := h.conversion (by decide)
  exact ⟨u, batch_succ force raw 11 ▸ runOps_snoc ht hu, h'⟩

theorem exec_adcRead_idle (ht : t.cseq = 0) (c : AdcChannel) :
    exec (.adcRead c) t = .next (setRes t (adcReadResult c t)) :=
  exec_command_idle (i := .adcRead c) rfl nofun ht

/-- ADC_READ in an unfinished batch (R127). -/
theorem Acquiring.exec_adcRead (h : Acquiring raw s n t) (c : AdcChannel) :
    exec (.adcRead c) t = .next { t with res := 0x1FFFF#17 } := by
  rw [exec_adcRead_idle h.idle, adcReadResult_running h.running]
  rfl

/-- ADC_READ after the batch (R127). -/
theorem Published.exec_adcRead (h : Published raw s t) (c : AdcChannel) :
    exec (.adcRead c) t = .next { t with res := 0#1 ++ t.adc.pub.get c } := by
  rw [exec_adcRead_idle h.idle, adcReadResult_published h.stopped h.pubv]
  rfl

/-- The published value of a channel in terms of the raw results of its column. -/
theorem Published.pub_toNat (h : Published raw s t) (c : AdcChannel) :
    (t.adc.pub.get c).toNat = ((raw c.sel).toNat % 1024 + (raw (c.sel + 3)).toNat % 1024
      + (raw (c.sel + 6)).toNat % 1024 + (raw (c.sel + 9)).toNat % 1024) / 4 := by
  rw [h.means, Statements.columnSum, h.stored.column c (by decide), h.stored.column c (by decide),
    h.stored.column c (by decide), h.stored.column c (by decide)]
  rfl

end

/-- Settles O24: fewer than twelve conversions leave the batch acquiring, twelve leave it published. -/
theorem twelveConversionsPublishTheMeans : Obligations.TwelveConversionsPublishTheMeans := by
  intro s force raw n hs hrestart hn
  by_cases hlt : n < 12
  · obtain ⟨t, ht, h⟩ := runOps_batch_acquiring (raw := raw) hs hrestart hlt
    simp only [if_pos hlt]
    exact ⟨t, ht, h.requests, h.stored, h.running, h.round, h.chan, h.exec_adcRead⟩
  · obtain rfl : n = 12 := by omega
    obtain ⟨t, ht, h⟩ := runOps_batch_published (raw := raw) hs hrestart
    exact ⟨t, ht, h.requests, h.stored, h.stopped, fun c => ⟨_, h.exec_adcRead c, h.pub_toNat c⟩⟩

end Sys2Proof.Machine
end

section
/-! ### Words with a selector their row does not have (R96, R98) -/
namespace Sys2Proof

/-- A word that selects a row of the table, with a selector the row does not have, is rejected for it whatever its
operands are. -/
theorem decode_illegalSelector {cw : Word}
    (h : ∃ r ∈ opcodeTable, cw &&& r.mask = r.pattern ∧ cw.toNat / 4 % 4 ∉ r.sels) (a b c : Word) :
    decode ⟨cw, a, b, c⟩ = .error .illegalSelector := by
  obtain ⟨_, hillegal⟩ := decodeAcceptsExactlyTheLegalWords ⟨cw, a, b, c⟩
  exact hillegal.mpr h

end Sys2Proof
end

section
/-! ### The operations of the capture engine (R141 to R147) -/
namespace Sys2Proof.Machine

open Sys2Proof.Safety

theorem capReadResult_complete {ch : Channel} {s : State} (h : (s.cap.get ch).done = true) :
    capReadResult ch s = readyWord (s.cap.get ch).duty := if_pos h

theorem capReadResult_incomplete {ch : Channel} {s : State} (h : (s.cap.get ch).done = false) :
    capReadResult ch s = notReady := if_neg (ne_true_of_eq_false h)

theorem exec_capRead_idle {s : State} (hs : s.cseq = 0) (ch : Channel) :
    exec (.capRead ch) s = .next (setRes s (capReadResult ch s)) :=
  exec_command_idle (i := .capRead ch) rfl nofun hs

@[simp] theorem capStart_done (ch : Channel) (s : State) : ((capStart ch s).cap.get ch).done = false := by
  simp [capStart]

theorem CapRecord.disarm_of_disarmed {r : CapRecord} (henr : r.enr = false) (henf : r.enf = false) :
    { r with enr := false, enf := false } = r := by
  cases r; cases henr; cases henf; rfl

/-- CAP_STOP of a channel with both sources disabled has no effect but its result. -/
theorem capStop_disarmed {ch : Channel} {s : State} (henr : (s.cap.get ch).enr = false)
    (henf : (s.cap.get ch).enf = false) : capStop ch s = s := by
  rw [capStop, CapRecord.disarm_of_disarmed henr henf, setCap, Pair.set_get]

/-- An edge whose source is disabled is discarded (R146). -/
theorem risingEdge_disabled {ch : Channel} {s : State} (h : (s.cap.get ch).enr = false) (time : Word) :
    risingEdge ch time s = s := if_neg (ne_true_of_eq_false h)

/-- An edge whose source is disabled is discarded (R146). -/
theorem fallingEdge_disabled {ch : Channel} {s : State} (h : (s.cap.get ch).enf = false) (time : Word) :
    fallingEdge CFG ch time s = s := if_neg (ne_true_of_eq_false h)

/-- A rising edge is discarded, or recorded with its timestamp (R144, R146). -/
theorem risingEdge_cases (ch : Channel) (time : Word) (s : State) :
    ((s.cap.get ch).enr = false ∧ risingEdge ch time s = s) ∨
    ((s.cap.get ch).enr = true ∧
      risingEdge ch time s = setCap s ch { s.cap.get ch with rise := time, seenR := true }) := by
  cases h : (s.cap.get ch).enr with
  | false => exact .inl ⟨rfl, risingEdge_disabled h time⟩
  | true => exact .inr ⟨rfl, if_pos h⟩

/-- A falling edge is discarded, recorded with its timestamp alone, or completes the measurement (R145 to R147). -/
theorem fallingEdge_cases (ch : Channel) (time : Word) (s : State) :
    ((s.cap.get ch).enf = false ∧ fallingEdge CFG ch time s = s) ∨
    ((s.cap.get ch).enf = true ∧ (s.cap.get ch).seenR = false ∧
      fallingEdge CFG ch time s = setCap s ch { s.cap.get ch with fall := time }) ∨
    ((s.cap.get ch).enf = true ∧ (s.cap.get ch).seenR = true ∧
      fallingEdge CFG ch time s =
        setCap s ch { s.cap.get ch with
          fall := time, duty := time - (s.cap.get ch).rise, done := true, enr := false, enf := false }) := by
  cases h : (s.cap.get ch).enf with
  | false => exact .inl ⟨rfl, fallingEdge_disabled h time⟩
  | true =>
    have e : fallingEdge CFG ch time s = setCap s ch (fallRecord CFG (s.cap.get ch) time) := if_pos h
    rw [e]
    rcases fallRecord_cases (s.cap.get ch) time with ⟨hseen, e'⟩ | ⟨hseen, e'⟩ <;> rw [e']
    · exact .inr (.inl ⟨rfl, hseen, rfl⟩)
    · exact .inr (.inr ⟨rfl, hseen, rfl⟩)

/-- The wrapped difference of two timestamps, by whether the counter rolled over between them (R145, R147). -/
theorem timestamp_sub_toNat (rise fall : Word) :
    (fall - rise).toNat =
      if rise.toNat ≤ fall.toNat then fall.toNat - rise.toNat else (65536 - rise.toNat) + fall.toNat := by
  have hr := rise.isLt
  have hf := fall.isLt
  rw [BitVec.toNat_sub]
  split <;> omega

/-- Settles O26: CAP_START is a command whose effect is one write of its channel's record. -/
theorem capStartArmsItsChannel : Obligations.CapStartArmsItsChannel := by
  refine ⟨rfl, rfl, decode_illegalSelector (by decide), decode_illegalSelector (by decide), fun ch s => ?_⟩
  rw [exec_command (i := .capStart ch) rfl nofun nofun]
  rfl

/-- Settles O27: CAP_STOP is a command whose effect is one write of its channel's record. -/
theorem capStopDisarmsItsChannel : Obligations.CapStopDisarmsItsChannel := by
  refine ⟨rfl, rfl, fun ch s => ?_⟩
  rw [exec_command (i := .capStop ch) rfl nofun nofun]
  rfl

/-- Settles O28: CAP_READ is a command whose whole effect is its result. -/
theorem capReadReturnsTheDutyOrNotReady : Obligations.CapReadReturnsTheDutyOrNotReady := by
  refine ⟨rfl, rfl, decode_illegalSelector (by decide), decode_illegalSelector (by decide), fun ch s => ?_⟩
  rw [exec_command (i := .capRead ch) rfl nofun nofun]
  rfl

/-- Settles O29, by the two cases of `risingEdge`. -/
theorem risingEdgeRecordsItsTimestamp : Obligations.RisingEdgeRecordsItsTimestamp := by
  refine ⟨rfl, rfl, decode_illegalSelector (by decide), decode_illegalSelector (by decide), fun ch time s => ?_⟩
  rw [exec_event_or_ustep (i := .evRise ch time) (.inl rfl), effectOf]
  rcases risingEdge_cases ch time s with ⟨henr, e⟩ | ⟨henr, e⟩ <;> rw [e]
  · rw [if_pos henr]
  · rw [if_neg (ne_false_of_eq_true henr)]
    rfl

/-- Settles O30: the duty is the difference of the words, and the record is that of the three cases of
`fallingEdge`. -/
theorem fallingEdgeCompletesTheMeasurement : Obligations.FallingEdgeCompletesTheMeasurement := by
  refine ⟨rfl, rfl, decode_illegalSelector (by decide), decode_illegalSelector (by decide), fun ch time s =>
    ⟨time - (s.cap.get ch).rise, timestamp_sub_toNat _ _, ?_, ?_⟩⟩
  · rw [BitVec.toNat_sub, Nat.add_comm]
  rw [exec_event_or_ustep (i := .evFall ch time) (.inl rfl), effectOf]
  rcases fallingEdge_cases ch time s with ⟨henf, e⟩ | ⟨henf, hseen, e⟩ | ⟨henf, hseen, e⟩ <;> rw [e]
  · rw [if_pos henf]
  · rw [if_neg (ne_false_of_eq_true henf), if_neg (ne_true_of_eq_false hseen)]
    rfl
  · rw [if_neg (ne_false_of_eq_true henf), if_pos hseen]
    rfl

end Sys2Proof.Machine
end

section
/-! ### Sequences of starts and edges of one channel (R149)

On an idle block they act on the channel's record alone, so their outcome is read off a fold over the record. -/
namespace Sys2Proof.Machine

open Sys2Proof.Safety

/-- The operations of one channel that the table of R149 is about. -/
inductive CaptureOp where
  | start
  | rise (time : Word)
  | fall (time : Word)

/-- The operation, of channel `ch`. -/
def CaptureOp.instr (ch : Channel) : CaptureOp → Instr
  | .start => .capStart ch
  | .rise time => .evRise ch time
  | .fall time => .evFall ch time

/-- What the operation makes of its channel's record (R141, R144, R145). -/
def CaptureOp.update : CaptureOp → CapRecord → CapRecord
  | .start => fun r => { r with done := false, seenR := false, enr := true, enf := true }
  | .rise time => riseUpdate time
  | .fall time => fallUpdate CFG time

/-- A record after a sequence of operations of its channel. -/
def recordAfter (ops : List CaptureOp) (r : CapRecord) : CapRecord := ops.foldl (fun r o => o.update r) r

@[simp] theorem updateCap_get (ch : Channel) (f : CapRecord → CapRecord) (s : State) :
    (updateCap ch f s).cap.get ch = f (s.cap.get ch) := by
  simp [updateCap]

theorem effectOf_captureOp (o : CaptureOp) (ch : Channel) (s : State) :
    effectOf (o.instr ch) s = updateCap ch o.update s := by
  cases o with
  | start => rfl
  | rise time => exact risingEdge_eq_updateCap ch time s
  | fall time => exact fallingEdge_eq_updateCap CFG ch time s

theorem exec_captureOp (o : CaptureOp) (ch : Channel) {s : State} (hs : s.cseq = 0) :
    ∃ t, exec (o.instr ch) s = .next t ∧ t.cseq = 0 ∧ t.cap.get ch = o.update (s.cap.get ch) := by
  have heffect : (effectOf (o.instr ch) s).cseq = 0 ∧
      (effectOf (o.instr ch) s).cap.get ch = o.update (s.cap.get ch) := by
    rw [effectOf_captureOp]
    exact ⟨hs, updateCap_get ch _ s⟩
  cases o with
  | start => exact ⟨_, exec_command_idle (i := .capStart ch) rfl nofun hs, heffect⟩
  | rise time | fall time => exact ⟨_, exec_event_or_ustep (.inl rfl) s, heffect⟩

theorem runOps_captureOps (ops : List CaptureOp) (ch : Channel) {s : State} (hs : s.cseq = 0) :
    ∃ t, runOps (ops.map (·.instr ch)) s = some t ∧ t.cseq = 0 ∧
      t.cap.get ch = recordAfter ops (s.cap.get ch) := by
  induction ops generalizing s with
  | nil => exact ⟨s, rfl, hs, rfl⟩
  | cons o ops ih =>
    obtain ⟨t, ht, hidle, hcap⟩ := exec_captureOp o ch hs
    obtain ⟨u, hu, hidle', hcap'⟩ := ih hidle
    rw [hcap] at hcap'
    exact ⟨u, (runOps_cons ht _).trans hu, hidle', hcap'⟩

/-- What holds of every idle state with the record that the sequence leaves holds of the state it answers. -/
theorem exists_runOps_captureOps (ops : List CaptureOp) {ch : Channel} {s : State} (hs : s.cseq = 0)
    {P : State → Prop} (hP : ∀ t : State, t.cseq = 0 → t.cap.get ch = recordAfter ops (s.cap.get ch) → P t) :
    ∃ t, runOps (ops.map (·.instr ch)) s = some t ∧ P t := by
  obtain ⟨t, ht, hidle, hcap⟩ := runOps_captureOps ops ch hs
  exact ⟨t, ht, hP t hidle hcap⟩

theorem recordAfter_snoc (ops : List CaptureOp) (o : CaptureOp) (r : CapRecord) :
    recordAfter (ops ++ [o]) r = o.update (recordAfter ops r) := by
  simp [recordAfter]

/-- A falling edge at the end of a sequence that leaves the source enabled and a rising edge seen completes the record
with the wrapped difference (R145, R147). -/
theorem recordAfter_fall_completes (ops : List CaptureOp) {r : CapRecord} (henf : (recordAfter ops r).enf = true)
    (hseen : (recordAfter ops r).seenR = true) (time : Word) :
    (recordAfter (ops ++ [.fall time]) r).done = true ∧
      (recordAfter (ops ++ [.fall time]) r).duty = time - (recordAfter ops r).rise := by
  rw [recordAfter_snoc, CaptureOp.update, fallUpdate, if_pos henf]
  rcases fallRecord_cases (recordAfter ops r) time with ⟨hunseen, _⟩ | ⟨_, e⟩
  · simp [hseen] at hunseen
  · rw [e]; exact ⟨rfl, rfl⟩

/-- Settles O31, row by row. A sequence that completes ends in a falling edge on a record that is enabled and has seen
a rising edge. -/
theorem edgeOrderAfterOneStart : Obligations.EdgeOrderAfterOneStart := by
  intro s ch r r1 r2 f f1 f2 hs
  refine ⟨exists_runOps_captureOps [.start, .rise r, .fall f] hs fun t _ hcap => ?_,
    exists_runOps_captureOps [.start, .rise r1, .rise r2, .fall f] hs fun t _ hcap => ?_,
    exists_runOps_captureOps [.start, .fall f1] hs fun t _ hcap => ?_,
    exists_runOps_captureOps [.start, .fall f1, .rise r, .fall f2] hs fun t _ hcap => ?_,
    exists_runOps_captureOps [.start, .fall f1, .rise r] hs fun t hidle hcap => ?_,
    exists_runOps_captureOps [.start, .rise r, .start, .fall f] hs fun t hidle hcap => ?_⟩
  · rw [hcap]; exact recordAfter_fall_completes [.start, .rise r] rfl rfl f
  · rw [hcap]; exact recordAfter_fall_completes [.start, .rise r1, .rise r2] rfl rfl f
  · rw [hcap]; exact ⟨rfl, rfl, rfl, rfl⟩
  · rw [hcap]; exact recordAfter_fall_completes [.start, .fall f1, .rise r] rfl rfl f2
  · obtain ⟨u, hu, _, hcap'⟩ := exec_captureOp (.fall f2) ch hidle
    rw [hcap] at hcap' ⊢
    refine ⟨rfl, rfl, rfl, rfl, u, hu, ?_⟩
    rw [hcap']
    exact (recordAfter_fall_completes [.start, .fall f1, .rise r] rfl rfl f2).left
  · refine ⟨by rw [hcap]; rfl, exists_runOps_captureOps [.rise r2, .fall f2] hidle fun u _ hcap' => ?_⟩
    rw [hcap', hcap]
    exact recordAfter_fall_completes [.rise r2] rfl rfl f2

end Sys2Proof.Machine
end

section
/-! ### When the completion flag rises, and how long the record stands (R140, R150) -/
namespace Sys2Proof.Machine

open Sys2Proof.Safety

/-- A falling edge of channel `ch` with its source enabled and a rising edge seen (R145). -/
def CompletingFall (ch : Channel) (i : Instr) (s : State) : Prop :=
  ∃ time, i = .evFall ch time ∧ (s.cap.get ch).enf = true ∧ (s.cap.get ch).seenR = true

variable {ch : Channel} {i : Instr} {s t : State}

/-- An operation that is no start, stop or edge of a channel leaves the channel's record as it is (R61). -/
theorem CapRow.eq_of_not_captureOp {r r' : CapRecord} (h : CapRow i ch r r') (hstart : i ≠ .capStart ch)
    (hstop : i ≠ .capStop ch) (hrise : ∀ v, i ≠ .evRise ch v) (hfall : ∀ v, i ≠ .evFall ch v) : r' = r := by
  obtain ⟨efall, eduty⟩ := h.fall hfall
  obtain ⟨eenr, eenf⟩ := h.enables hstart hstop hfall
  change CapRecord.mk r'.rise r'.fall r'.duty r'.done r'.enr r'.enf r'.seenR = r
  rw [h.rise hrise, efall, eduty, h.done hstart hfall, eenr, eenf, h.seenR hstart hrise]

theorem controlCycle_port {n : Nat} (h : Statements.controlCycle n = some i) : i.port = .command := by
  unfold Statements.controlCycle at h
  split at h <;> cases h <;> rfl

theorem effectOf_completes_of_ne_ustep (hu : i ≠ .ustep) (hs : (s.cap.get ch).done = false)
    (ht : ((effectOf i s).cap.get ch).done = true) : CompletingFall ch i s := by
  by_cases hstart : i = .capStart ch
  · subst hstart
    simp [effectOf] at ht
  by_cases hfall : ∃ time, i = .evFall ch time
  · obtain ⟨time, rfl⟩ := hfall
    rw [effectOf] at ht
    rcases fallingEdge_cases ch time s with ⟨_, e⟩ | ⟨_, _, e⟩ | ⟨henf, hseen, _⟩
    · simp [e, hs] at ht
    · simp [e, hs] at ht
    · exact ⟨time, rfl, henf, hseen⟩
  · have hkept := ((effectOf_row hu s).cap ch).done hstart (not_exists.mp hfall)
    simp [hkept, hs] at ht

/-- No micro-step completes a measurement: the control cycle lists commands only (R219). -/
theorem sequencerStep_keeps_incomplete (hs : (s.cap.get ch).done = false) :
    ((sequencerStep CFG s).cap.get ch).done = false := by
  unfold sequencerStep
  split
  · rw [setCseq_cap, microStep_eq]
    cases hn : Statements.controlCycle s.cseq.toNat with
    | none => exact hs
    | some i =>
      refine eq_false_of_ne_true fun ht => ?_
      obtain ⟨time, rfl, _⟩ := effectOf_completes_of_ne_ustep (controlCycle_ne_ustep hn) hs ht
      cases controlCycle_port hn
  · exact hs

/-- Only a falling edge completes a measurement (R149). -/
theorem effectOf_completes (hs : (s.cap.get ch).done = false)
    (ht : ((effectOf i s).cap.get ch).done = true) : CompletingFall ch i s := by
  by_cases hu : i = .ustep
  · subst hu
    rw [effectOf, sequencerStep_keeps_incomplete hs] at ht
    cases ht
  · exact effectOf_completes_of_ne_ustep hu hs ht

theorem exec_completes (h : exec i s = .next t) (hs : (s.cap.get ch).done = false)
    (ht : (t.cap.get ch).done = true) : CompletingFall ch i s := by
  rcases exec_cases i s with e | ⟨_, e⟩ | ⟨_, e⟩ <;> (rw [e] at h; cases h)
  · simp [hs] at ht
  · exact effectOf_completes hs ht
  · exact effectOf_completes hs ht

/-- A complete channel of a reachable state is disarmed, so only its CAP_START, as a command or a micro-step, changes
its record (R140). -/
theorem effectOf_keeps_complete_record (hinv : Inv s) (hs : (s.cap.get ch).done = true) (hstart : i ≠ .capStart ch)
    (hu : i ≠ .ustep) : (effectOf i s).cap.get ch = s.cap.get ch := by
  have henf : (s.cap.get ch).enf = false := (hinv.cap ch).disarmed hs
  have henr : (s.cap.get ch).enr = false := (hinv.cap ch).enables.trans henf
  by_cases hstop : i = .capStop ch
  · subst hstop
    rw [effectOf, capStop_disarmed henr henf]
  by_cases hrise : ∃ time, i = .evRise ch time
  · obtain ⟨time, rfl⟩ := hrise
    rw [effectOf, risingEdge_disabled henr]
  by_cases hfall : ∃ time, i = .evFall ch time
  · obtain ⟨time, rfl⟩ := hfall
    rw [effectOf, fallingEdge_disabled henf]
  · exact ((effectOf_row hu s).cap ch).eq_of_not_captureOp hstart hstop (not_exists.mp hrise) (not_exists.mp hfall)

theorem exec_keeps_complete_record (hinv : Inv s) (hs : (s.cap.get ch).done = true) (hstart : i ≠ .capStart ch)
    (hu : i ≠ .ustep) (h : exec i s = .next t) : t.cap.get ch = s.cap.get ch := by
  rcases exec_cases i s with e | ⟨_, e⟩ | ⟨_, e⟩ <;> (rw [e] at h; cases h)
  · rfl
  · exact effectOf_keeps_complete_record hinv hs hstart hu
  · exact effectOf_keeps_complete_record hinv hs hstart hu

theorem runOps_keeps_complete_record (ops : List Instr) (hinv : Inv s) (hs : (s.cap.get ch).done = true)
    (hops : ∀ i ∈ ops, i ≠ .capStart ch ∧ i ≠ .ustep) :
    ∃ t, runOps ops s = some t ∧ t.cap.get ch = s.cap.get ch := by
  induction ops generalizing s with
  | nil => exact ⟨s, rfl, rfl⟩
  | cons i ops ih =>
    obtain ⟨⟨hstart, hu⟩, hrest⟩ := List.forall_mem_cons.mp hops
    obtain ⟨t, ht, _⟩ := exec_row i s
    have hkept := exec_keeps_complete_record hinv hs hstart hu ht
    obtain ⟨u, hrun, hkept'⟩ := ih (exec_inv hinv ht) (hkept ▸ hs) hrest
    exact ⟨u, (runOps_cons ht ops).trans hrun, hkept'.trans hkept⟩

end Sys2Proof.Machine
end

section
namespace Sys2Proof.Machine

open Sys2Proof.Safety

/-- Settles O32: `capReadResult_incomplete`, `exec_completes`, and `runOps_keeps_complete_record` with the read that
follows. -/
theorem captureNotReadyContract : Obligations.CaptureNotReadyContract := by
  refine ⟨fun ch s hidle hs => ?_, fun _ _ _ _ => exec_completes, fun ch ops s hinv hs hops => ?_⟩
  · rw [exec_capRead_idle hidle, capReadResult_incomplete hs]
    rfl
  · obtain ⟨t, ht, hkept⟩ := runOps_keeps_complete_record ops hinv hs hops
    refine ⟨t, ht, hkept, fun hidle => ?_⟩
    rw [exec_capRead_idle hidle, capReadResult_complete (hkept ▸ hs), hkept]
    rfl

end Sys2Proof.Machine
end

section
/-! ### The parts of an External cycle (R170) -/
namespace Sys2Proof.Machine

/-- The endpoint lock's cycle for the candidate target of step 2.1: the lock it leaves, and the post-lock target. -/
def externalLock (k : Channel) (s : State) : LockRecord × Int :=
  lockNext CFG (s.lk.get k) (candidate CFG (s.cap.get k) (s.cc.get k) (s.dc.get k) (s.pinLvl.get k))

/-- The filter that the change gate of step 2.4 finds, reset to the post-lock target after a Local cycle. -/
def switchedFilter (k : Channel) (s : State) : EwRecord :=
  switchFilter (s.cc.get k).mode (s.ew.get k) (externalLock k s).2

/-- An External cycle as writes of the debounce, the lock, the filter and the control record of its channel. -/
theorem externalBranch_eq (k : Channel) (s : State) :
    externalBranch CFG k s =
      setCc
        (setEw
          (setLk (setDc s k (debounceAfter (s.cap.get k) (s.cc.get k) (s.dc.get k) (s.pinLvl.get k))) k
            (externalLock k s).1)
          k (gatedFilter CFG (switchedFilter k s) (externalLock k s).2 (s.cc.get k).inval))
        k { s.cc.get k with
          tmo := timeoutNext (s.cap.get k) (s.cc.get k)
          mode := .externalMode
          inval := gatedInval CFG (switchedFilter k s) (externalLock k s).2 (s.cc.get k).inval } := rfl

end Sys2Proof.Machine
end

section
/-! ### Filter averages, input values and output values stay in the duty range (R40, R41, R177)

As for the state invariant: a rule for each write of a filter and of a control record, then the operations that write
values (COND, PLIM, CHAN and the filter commands). Every other operation keeps the values because R61 gives it no
column that holds one. -/
namespace Sys2Proof.Machine

open Sys2Proof.Safety

variable {s t : State} {i : Instr}

theorem values_setEw (h : ValuesInRange s) (k : Channel) {e : EwRecord} (he : InDuty e.avg) :
    ValuesInRange (setEw s k e) :=
  { h with avg := Pair.forall_set (P := fun e : EwRecord => InDuty e.avg) h.avg he }

theorem values_setCc (h : ValuesInRange s) (k : Channel) {r : ControlRecord} (hin : InDuty r.inval)
    (hout : InDuty r.outval) : ValuesInRange (setCc s k r) :=
  { h with
    inval := Pair.forall_set (P := fun r : ControlRecord => InDuty r.inval) h.inval hin
    outval := Pair.forall_set (P := fun r : ControlRecord => InDuty r.outval) h.outval hout }

/-- An operation whose row marks no average, input value or output value W keeps them in range. -/
theorem WritesOnlyRow.keeps_values (hrow : WritesOnlyRow i s t) (h : ValuesInRange s) (hcond : ∀ k, i ≠ .cond k)
    (hchan : ∀ k, i ≠ .chan k) (hplim : ∀ k, i ≠ .plim k) (hinit : ∀ k b v w, i ≠ .ewInit k b v w)
    (hreset : ∀ k v, i ≠ .ewReset k v) (hupdate : ∀ k b v w x, i ≠ .ewUpdate k b v w x) : ValuesInRange t where
  avg k := by rw [hrow.ew k (hcond k) (hchan k) (hinit k) (hreset k) (hupdate k)]; exact h.avg k
  inval k := by
    obtain ⟨hinval, _⟩ := (hrow.cc k).input (hcond k) (hchan k)
    rw [hinval]; exact h.inval k
  outval k := by rw [(hrow.cc k).output (hplim k) (hchan k)]; exact h.outval k

/-! #### COND, PLIM and CHAN -/

theorem switchFilter_inDuty {e : EwRecord} (he : InDuty e.avg) {x : Int} (hx : 0 ≤ x ∧ x ≤ (dutyMax : Int))
    (mode : Mode) : InDuty (switchFilter mode e x).avg := by
  cases mode with
  | localMode => exact inDuty_u16 hx
  | externalMode => exact he

theorem gatedFilter_inDuty {e : EwRecord} (he : InDuty e.avg) {x : Int} (hx : 0 ≤ x ∧ x ≤ (dutyMax : Int))
    (inval : Word) : InDuty (gatedFilter CFG e x inval).avg := by
  unfold gatedFilter
  split
  · exact ewUpdate_inDuty he _ hx _ _
  · exact he

theorem gatedInval_inDuty {e : EwRecord} (he : InDuty e.avg) {x : Int} (hx : 0 ≤ x ∧ x ≤ (dutyMax : Int))
    {inval : Word} (hin : InDuty inval) : InDuty (gatedInval CFG e x inval) := by
  unfold gatedInval
  split
  · exact gatedFilter_inDuty he hx inval
  · exact hin

/-- The output value is between 0 and an input value that is in range (R173). -/
theorem limited_inDuty {w : Word} (h : InDuty w) (tier : BitVec 2) : InDuty (limited CFG tier w) := by
  obtain ⟨hl, hu⟩ := h
  obtain ⟨hl', hu'⟩ := limited_between CFG_wf tier hl
  exact ⟨hl', hu'.trans hu⟩

/-- The target of an External cycle is in range, so what the filter and the input value take from it is (R170). -/
theorem externalBranch_values (h : ValuesInRange s) (k : Channel) : ValuesInRange (externalBranch CFG k s) := by
  have hcand := candidate_range (r := s.cap.get k) (h.inval k) (s.dc.get k) (s.pinLvl.get k)
  have htarget : 0 ≤ (externalLock k s).2 ∧ (externalLock k s).2 ≤ (dutyMax : Int) := lockNext_range hcand
  have hfilter : InDuty (switchedFilter k s).avg := switchFilter_inDuty (h.avg k) htarget (s.cc.get k).mode
  rw [externalBranch_eq]
  refine values_setCc (values_setEw ?_ k (gatedFilter_inDuty hfilter htarget (s.cc.get k).inval)) k
    (gatedInval_inDuty hfilter htarget (h.inval k)) (h.outval k)
  exact { h with }

theorem condition_values (h : ValuesInRange s) (k : Channel) : ValuesInRange (condition CFG k s) := by
  unfold condition
  split
  · exact externalBranch_values h k
  · exact values_setCc h k (localMap_inDuty _) (h.outval k)

theorem powerLimit_values (h : ValuesInRange s) (k : Channel) : ValuesInRange (powerLimit CFG k s) :=
  values_setCc h k (h.inval k) (limited_inDuty (h.inval k) s.tier)

theorem outputGate_values (h : ValuesInRange s) (c : Config) (k : Channel) : ValuesInRange (outputGate c k s) := by
  unfold outputGate
  split
  · exact { h with }
  · exact h

theorem channelPipeline_values (h : ValuesInRange s) (k : Channel) : ValuesInRange (channelPipeline CFG k s) :=
  outputGate_values (powerLimit_values (condition_values h k) k) CFG k

/-! #### Operations and steps -/

theorem effectOf_values_of_ne_ustep (h : ValuesInRange s) (hu : i ≠ .ustep) (hop : FilterOperandInRange i) :
    ValuesInRange (effectOf i s) := by
  cases i with
  | ustep => exact absurd rfl hu
  | cond k => exact condition_values h k
  | plim k => exact powerLimit_values h k
  | chan k => exact channelPipeline_values h k
  | ewInit k _ initial length => exact values_setEw h k hop
  | ewReset k value =>
    refine values_setEw h k ?_
    rw [ewReset, u16_s16]
    exact hop
  | ewUpdate k enabled sample deadBand maxError => exact values_setEw h k (ewUpdate_inDuty (h.avg k) _ hop _ _)
  | _ => exact (effectOf_row hu s).keeps_values h nofun nofun nofun nofun nofun nofun

/-- The control cycle lists no filter command (R219). -/
theorem controlCycle_operandInRange {n : Nat} (h : Statements.controlCycle n = some i) : FilterOperandInRange i := by
  unfold Statements.controlCycle at h
  split at h <;> cases h <;> trivial

theorem sequencerStep_values (h : ValuesInRange s) : ValuesInRange (sequencerStep CFG s) := by
  have hmicro : ValuesInRange (microStep CFG s.cseq.toNat s) := by
    rw [microStep_eq]
    cases hn : Statements.controlCycle s.cseq.toNat with
    | none => exact h
    | some i => exact effectOf_values_of_ne_ustep h (controlCycle_ne_ustep hn) (controlCycle_operandInRange hn)
  unfold sequencerStep
  split
  · exact { hmicro with }
  · exact h

theorem effectOf_values (h : ValuesInRange s) (hop : FilterOperandInRange i) : ValuesInRange (effectOf i s) := by
  by_cases hu : i = .ustep
  · subst hu; exact sequencerStep_values h
  · exact effectOf_values_of_ne_ustep h hu hop

theorem exec_values (h : ValuesInRange s) (hop : FilterOperandInRange i) (ht : exec i s = .next t) :
    ValuesInRange t := by
  rcases exec_cases i s with e | ⟨_, e⟩ | ⟨_, e⟩ <;> (rw [e] at ht; cases ht)
  · exact h
  · exact effectOf_values h hop
  · exact { effectOf_values h hop with }

theorem reservedWord_values (h : ValuesInRange s) (p : Port) : ValuesInRange (reservedWord p s) := by
  cases p with
  | event => exact h
  | command =>
    rw [reservedWord]
    rcases acceptCommand_cases s (fun s => setRes s notReady) with ⟨_, e⟩ | ⟨_, e⟩ <;> rw [e]
    · exact h
    · exact { h with }

theorem applyReset_values (s : State) : ValuesInRange (applyReset s) :=
  { (resetValuesAreInTheDutyRange : ValuesInRange State.reset) with }

end Sys2Proof.Machine
end

section
namespace Sys2Proof.Machine

open Sys2Proof.Safety

/-- Settles O58, by cases on what the step finds to do: every operation's effect keeps the values in range, and reset
puts them there from any state. -/
theorem stepKeepsValuesInTheDutyRange : Obligations.StepKeepsValuesInTheDutyRange := by
  intro s t h hop ht
  have htaken : ValuesInRange (taken s) := { h with }
  rcases step_cases s with ⟨i, hi, e⟩ | ⟨p, _, e⟩ | ⟨_, e⟩ | ⟨_, e⟩ | ⟨_, e⟩ <;> rw [e] at ht
  case inl => exact exec_values htaken (hop i hi) ht
  all_goals cases ht
  · exact reservedWord_values htaken p
  · exact htaken
  · exact applyReset_values (taken s)
  · exact h

end Sys2Proof.Machine
end

section
/-! ### Endpoint lock: its cycle with the counter as a number (R163 to R165) -/
namespace Sys2Proof.Machine

open Sys2Proof.Safety

variable {l : LockRecord} {x : Int} {rail : Rail}

/-- The zone, rail, counter as a number, and output of a lock cycle: what R165 states. -/
def lockReading (p : LockRecord × Int) : Zone × Rail × Nat × Int := (p.1.zone, p.1.dir, p.1.cnt.toNat, p.2)

theorem lockInv_cnt_lt (h : LockInv l) : l.cnt.toNat < 255 := by
  have hn := CFG_wf.nEnter_lt_mExit
  have hm := CFG_wf.mExit_le
  unfold LockInv at h
  split at h <;> omega

/-- The count of a run toward `rail` goes on in a cycle toward the same rail, and starts at 1 in one toward the other
(R165). -/
theorem entryCount_toNat (h : l.cnt.toNat < 255) (rail : Rail) :
    (entryCount l rail).toNat = if l.dir = rail then l.cnt.toNat + 1 else 1 := by
  have hsucc := count_succ h
  unfold entryCount
  split
  · next hother =>
    obtain ⟨_, hdir⟩ := hother
    rw [if_neg hdir]
    rfl
  · next hnot =>
    split
    · exact hsucc
    · next hdir =>
      have hzero : ¬ 0 < l.cnt.toNat := fun hpos => hnot ⟨BitVec.lt_def.mpr hpos, hdir⟩
      omega

/-- The cycle qualifies for entry toward a rail (R164). -/
def Qualifies : Rail → Int → Prop
  | .low, x => x ≤ CFG.lockLowEnter
  | .high, x => (CFG.lockHighEnter : Int) ≤ x

theorem lowEnter_iff : lowEnter CFG x = true ↔ Qualifies .low x := decide_eq_true_iff

theorem highEnter_iff : highEnter CFG x = true ↔ Qualifies .high x := decide_eq_true_iff

/-- The thresholds leave a gap, so no cycle qualifies for both rails (R11). -/
theorem not_qualifies_low (h : Qualifies .high x) : ¬ Qualifies .low x := by
  have h1 := CFG_wf.lowEnter_le_lowExit
  have h2 := CFG_wf.lowExit_lt_highExit
  have h3 := CFG_wf.highExit_le_highEnter
  unfold Qualifies at *
  omega

/-- The zone locked to a rail (R163). -/
def Rail.zone : Rail → Zone
  | .low => .lowLock
  | .high => .highLock

/-- The output locked to a rail (R163). -/
def Rail.output : Rail → Int
  | .low => 0
  | .high => dutyMax

/-- The output while counting toward a rail: clamped on the high side only (R165). -/
def Rail.countingOutput : Rail → Int → Int
  | .low, x => x
  | .high, _ => CFG.lockHighEnter

/-- A cycle in Normal that qualifies for a rail commits to it or counts toward it (R165). -/
theorem lockNormal_qualifying (h : Qualifies rail x) :
    lockNormal CFG l x =
      if CFG.nEnter ≤ (entryCount l rail).toNat then (⟨rail.zone, rail, 0⟩, rail.output)
      else ({ l with dir := rail, cnt := entryCount l rail }, rail.countingOutput x) := by
  cases rail with
  | low => exact if_pos (lowEnter_iff.mpr h)
  | high => exact (if_neg (lowEnter_iff.not.mpr (not_qualifies_low h))).trans (if_pos (highEnter_iff.mpr h))

/-- A cycle in Normal that qualifies for no rail clears the counter and passes its input (R165). -/
theorem lockNormal_between (hlow : ¬ Qualifies .low x) (hhigh : ¬ Qualifies .high x) :
    lockNormal CFG l x = ({ l with cnt := 0 }, x) :=
  (if_neg (lowEnter_iff.not.mpr hlow)).trans (if_neg (highEnter_iff.not.mpr hhigh))

theorem lockNormal_qualifying_reading (hc : l.cnt.toNat < 255) (hz : l.zone = .normal) (h : Qualifies rail x) :
    lockReading (lockNormal CFG l x) =
      if CFG.nEnter ≤ (if l.dir = rail then l.cnt.toNat + 1 else 1) then (rail.zone, rail, 0, rail.output)
      else (.normal, rail, (if l.dir = rail then l.cnt.toNat + 1 else 1), rail.countingOutput x) := by
  rw [lockNormal_qualifying h, ← entryCount_toNat hc rail]
  split
  · rfl
  · rw [lockReading, hz]

/-- A locked zone counts its qualifying cycles toward the exit (R165). -/
theorem lockHeld_reading (hc : l.cnt.toNat < 255) (qualifies : Bool) (y x : Int) :
    lockReading (lockHeld CFG l qualifies y x) =
      if qualifies = true then
        if CFG.mExit ≤ l.cnt.toNat + 1 then (.normal, l.dir, 0, x) else (l.zone, l.dir, l.cnt.toNat + 1, y)
      else (l.zone, l.dir, 0, y) := by
  rw [← count_succ hc, lockHeld]
  split
  · split <;> rfl
  · rfl

theorem lockNext_normal (h : l.zone = .normal) (x : Int) : lockNext CFG l x = lockNormal CFG l x := by
  rw [lockNext, h]

theorem lockNext_lowLock (h : l.zone = .lowLock) (x : Int) :
    lockNext CFG l x = lockHeld CFG l (lowExit CFG x) Rail.low.output x := by
  rw [lockNext, h]; rfl

theorem lockNext_highLock (h : l.zone = .highLock) (x : Int) :
    lockNext CFG l x = lockHeld CFG l (highExit CFG x) Rail.high.output x := by
  rw [lockNext, h]; rfl

/-- LOCK_STEP on an idle block performs one cycle of the lock and returns its output. -/
theorem exec_lockStep_idle {s : State} (hs : s.cseq = 0) (k : Channel) (x : Word) :
    exec (.lockStep k x) s = .next (setRes (setLk s k (lockNext CFG (s.lk.get k) x.toInt).1)
      (ready (lockNext CFG (s.lk.get k) x.toInt).2)) := by
  rw [exec_command_idle (i := .lockStep k x) rfl nofun hs, effectOf, resultOf, s16_eq_toInt]

/-- A lock record from its reading. -/
theorem lockRecord_of_reading (l : LockRecord) : LockRecord.mk l.zone l.dir (BitVec.ofNat 8 l.cnt.toNat) = l := by
  rw [BitVec.ofNat_toNat, BitVec.setWidth_eq]

/-- Settles O34: the reading of one cycle, by zone, and in Normal by the rail the input qualifies for. -/
theorem lockStepFollowsTheHysteresis : Obligations.LockStepFollowsTheHysteresis := by
  refine ⟨rfl, rfl, fun k x s hs hinv => ?_⟩
  have hc := lockInv_cnt_lt hinv
  refine ⟨_, _, _, _, show lockReading (lockNext CFG (s.lk.get k) x.toInt) = _ from ?_, ?_⟩
  · cases hz : (s.lk.get k).zone with
    | normal =>
      rw [lockNext_normal hz]
      dsimp only
      split
      · next hlow => exact lockNormal_qualifying_reading (rail := .low) hc hz hlow
      · next hlow =>
        split
        · next hhigh => exact lockNormal_qualifying_reading (rail := .high) hc hz hhigh
        · next hhigh => rw [lockNormal_between hlow hhigh, lockReading, hz]; rfl
    | lowLock =>
      rw [lockNext_lowLock hz, lockHeld_reading hc, hz]
      simp only [lowExit, decide_eq_true_eq]
      rfl
    | highLock =>
      rw [lockNext_highLock hz, lockHeld_reading hc, hz]
      simp only [highExit, decide_eq_true_eq]
      rfl
  · rw [exec_lockStep_idle hs, lockRecord_of_reading]
    rfl

end Sys2Proof.Machine
end

section
/-! ### Endpoint lock: sequences of cycles (R163)

On an idle block LOCK_STEPs act on their channel's lock alone, so the lock and the last output are read off a fold. -/
namespace Sys2Proof.Machine

open Sys2Proof.Safety

variable {p : LockRecord × Int} {rail : Rail} {n : Nat}

/-- A lock with its last output, after a sequence of cycles. -/
def lockAfter (xs : List Word) (p : LockRecord × Int) : LockRecord × Int :=
  xs.foldl (fun p x => lockNext CFG p.1 x.toInt) p

theorem lockAfter_cons (x : Word) (xs : List Word) (p : LockRecord × Int) :
    lockAfter (x :: xs) p = lockAfter xs (lockNext CFG p.1 x.toInt) := rfl

/-- LOCK_STEPs leave the lock that the fold leaves and, if there is one, return the fold's output. What the output was
before the first one is free. -/
theorem runOps_lockSteps (xs : List Word) (k : Channel) {s : State} (hs : s.cseq = 0) (y : Int) :
    ∃ t, runOps (xs.map (.lockStep k)) s = some t ∧ t.lk.get k = (lockAfter xs (s.lk.get k, y)).1 ∧
      (xs ≠ [] → t.res = ready (lockAfter xs (s.lk.get k, y)).2) := by
  induction xs generalizing s y with
  | nil => exact ⟨s, rfl, rfl, fun h => absurd rfl h⟩
  | cons x xs ih =>
    have hx := exec_lockStep_idle hs k x
    set l' := lockNext CFG (s.lk.get k) x.toInt
    obtain ⟨t, ht, hlk, hres⟩ := ih (s := setRes (setLk s k l'.1) (ready l'.2)) hs l'.2
    rw [setRes_lk, setLk_lk, Pair.get_set_same] at hlk hres
    refine ⟨t, (runOps_cons hx _).trans ht, hlk, fun _ => ?_⟩
    cases xs with
    | nil => cases ht; rfl
    | cons x' xs => exact hres (List.cons_ne_nil x' xs)

/-- A lock at a rail, its output there too. -/
structure Held (rail : Rail) (p : LockRecord × Int) : Prop where
  zone : p.1.zone = rail.zone
  output : p.2 = rail.output

/-- A locked zone whose count stays below M_EXIT keeps its rail, and counts by at most one (R165). -/
theorem lockHeld_stays {l : LockRecord} (h : l.cnt.toNat + 1 < CFG.mExit) (qualifies : Bool) (y x : Int) :
    (lockHeld CFG l qualifies y x).1.zone = l.zone ∧
      (lockHeld CFG l qualifies y x).1.cnt.toNat ≤ l.cnt.toNat + 1 ∧ (lockHeld CFG l qualifies y x).2 = y := by
  have hm := CFG_wf.mExit_le
  have hsucc : (l.cnt + 1).toNat = l.cnt.toNat + 1 := count_succ (by omega)
  cases qualifies with
  | true =>
    rw [lockHeld, if_pos rfl, if_neg (by omega)]
    exact ⟨rfl, hsucc.le, rfl⟩
  | false => exact ⟨rfl, Nat.zero_le _, rfl⟩

theorem lockNext_locked {l : LockRecord} (h : l.zone = rail.zone) (x : Int) :
    ∃ qualifies, lockNext CFG l x = lockHeld CFG l qualifies rail.output x := by
  cases rail with
  | low => exact ⟨_, lockNext_lowLock h x⟩
  | high => exact ⟨_, lockNext_highLock h x⟩

theorem lockAfter_held (xs : List Word) (h : Held rail p) (hlen : p.1.cnt.toNat + xs.length < CFG.mExit) :
    Held rail (lockAfter xs p) := by
  induction xs generalizing p with
  | nil => exact h
  | cons x xs ih =>
    rw [List.length_cons] at hlen
    obtain ⟨qualifies, e⟩ := lockNext_locked h.zone x.toInt
    obtain ⟨hzone, hcnt, hout⟩ :=
      lockHeld_stays (l := p.1) (by omega) qualifies rail.output x.toInt
    rw [← e] at hzone hcnt hout
    rw [lockAfter_cons]
    exact ih ⟨hzone.trans h.zone, hout⟩ (by omega)

/-- Settles O35: the rail is kept over the fold, so the last LOCK_STEP returns it. -/
theorem lockHoldsForFewerThanExitCycles : Obligations.LockHoldsForFewerThanExitCycles := by
  intro k s xs hs hz hlen
  obtain ⟨rail, hrail⟩ : ∃ rail : Rail, (s.lk.get k).zone = rail.zone := by
    cases h : (s.lk.get k).zone with
    | normal => exact absurd h hz
    | lowLock => exact ⟨.low, rfl⟩
    | highLock => exact ⟨.high, rfl⟩
  obtain ⟨t, ht, hlk, hres⟩ := runOps_lockSteps xs k hs rail.output
  have hheld := lockAfter_held xs (p := (s.lk.get k, rail.output)) ⟨hrail, rfl⟩ hlen
  refine ⟨t, ht, ?_, fun hne => ?_⟩
  · rw [hlk, hheld.zone, hrail]
  · rw [hres hne, hheld.output, hrail]
    cases rail <;> rfl

/-- In Normal with `n` cycles counted toward `rail`, the output clamped if that is the high one. -/
structure Counting (rail : Rail) (n : Nat) (p : LockRecord × Int) : Prop where
  zone : p.1.zone = .normal
  cnt : p.1.cnt.toNat = n
  dir : n ≠ 0 → p.1.dir = rail
  output : rail = .high → p.2 = CFG.lockHighEnter

/-- A qualifying cycle is one more counted, or the commit if that makes N_ENTER (R165). -/
theorem Counting.lockNext (h : Counting rail n p) (hn : n < CFG.nEnter) {x : Int} (hx : Qualifies rail x) :
    if n + 1 = CFG.nEnter then lockNext CFG p.1 x = (⟨rail.zone, rail, 0⟩, rail.output)
    else Counting rail (n + 1) (lockNext CFG p.1 x) := by
  have h1 := CFG_wf.nEnter_lt_mExit
  have h2 := CFG_wf.mExit_le
  have hcnt := h.cnt
  have hentry : (entryCount p.1 rail).toNat = n + 1 := by
    rw [entryCount_toNat (by omega), hcnt]
    split
    · rfl
    · next hdir => rw [not_not.mp (mt h.dir hdir)]
  rw [lockNext_normal h.zone, lockNormal_qualifying hx, hentry]
  split
  · next hlast => rw [if_pos hlast.ge]
  · next hlast =>
    rw [if_neg (by omega)]
    exact ⟨h.zone, hentry, fun _ => rfl, fun hrail => by subst hrail; rfl⟩

theorem lockAfter_counting (xs : List Word) (h : Counting rail n p) (hn : n < CFG.nEnter)
    (hxs : ∀ x ∈ xs, Qualifies rail x.toInt) (hlen : n + xs.length ≤ CFG.nEnter) :
    if n + xs.length = CFG.nEnter then lockAfter xs p = (⟨rail.zone, rail, 0⟩, rail.output)
    else Counting rail (n + xs.length) (lockAfter xs p) := by
  induction xs generalizing n p with
  | nil => rw [List.length_nil, Nat.add_zero, if_neg hn.ne]; exact h
  | cons x xs ih =>
    obtain ⟨hx, hxs⟩ := List.forall_mem_cons.mp hxs
    have hnext := h.lockNext hn hx
    have hlength : n + (x :: xs).length = n + 1 + xs.length := by rw [List.length_cons]; omega
    rw [lockAfter_cons]
    rw [hlength] at hlen ⊢
    split at hnext
    · next hlast =>
      obtain rfl : xs = [] := List.length_eq_zero_iff.mp (by omega)
      rw [List.length_nil, Nat.add_zero, if_pos hlast]
      exact hnext
    · exact ih hnext (by omega) hxs hlen

/-- From Normal with a clear counter, LOCK_STEPs that all qualify for a rail lock to it if there are N_ENTER, and else
leave it counting. -/
theorem runOps_lockSteps_qualifying {k : Channel} {s : State} {xs : List Word} (hs : s.cseq = 0)
    (hz : (s.lk.get k).zone = .normal) (hc : (s.lk.get k).cnt = 0) (hxs : ∀ x ∈ xs, Qualifies rail x.toInt)
    (hlen : xs.length ≤ CFG.nEnter) :
    ∃ t, runOps (xs.map (.lockStep k)) s = some t ∧
      if xs.length = CFG.nEnter then t.lk.get k = ⟨rail.zone, rail, 0⟩ ∧ t.res = ready rail.output
      else (t.lk.get k).zone = .normal ∧ (rail = .high → xs ≠ [] → t.res = ready CFG.lockHighEnter) := by
  have hpos := CFG_wf.nEnter_pos
  obtain ⟨t, ht, hlk, hres⟩ := runOps_lockSteps xs k hs CFG.lockHighEnter
  have hstart : Counting rail 0 (s.lk.get k, (CFG.lockHighEnter : Int)) :=
    ⟨hz, by rw [hc]; rfl, fun h => absurd rfl h, fun _ => rfl⟩
  have hafter := lockAfter_counting xs hstart hpos hxs (by omega)
  rw [Nat.zero_add] at hafter
  refine ⟨t, ht, ?_⟩
  split at hafter
  · next hfull =>
    have hne : xs ≠ [] := List.ne_nil_of_length_pos (by omega)
    rw [if_pos hfull, hlk, hres hne, hafter]
    exact ⟨rfl, rfl⟩
  · next hfewer =>
    rw [if_neg hfewer, hlk]
    exact ⟨hafter.zone, fun hrail hne => by rw [hres hne, hafter.output hrail]⟩

/-- Settles O36: `runOps_lockSteps_qualifying` for each rail. -/
theorem lockCommitsAfterEnterCycles : Obligations.LockCommitsAfterEnterCycles := by
  intro k s xs hs hz hc
  refine ⟨fun hxs hlen => ?_, fun hxs hlen => ?_⟩
  · obtain ⟨t, ht, h⟩ := runOps_lockSteps_qualifying (rail := .low) hs hz hc hxs hlen
    refine ⟨t, ht, ?_⟩
    split at h
    · next hfull =>
      obtain ⟨hlk, hres⟩ := h
      rw [if_pos hfull, hlk, hres]
      exact ⟨rfl, rfl, rfl⟩
    · next hfewer =>
      rw [if_neg hfewer]
      exact h.left
  · obtain ⟨t, ht, h⟩ := runOps_lockSteps_qualifying (rail := .high) hs hz hc hxs hlen
    refine ⟨t, ht, ?_⟩
    split at h
    · next hfull =>
      obtain ⟨hlk, hres⟩ := h
      rw [if_pos hfull, hlk, hres]
      exact ⟨rfl, rfl, rfl⟩
    · next hfewer =>
      obtain ⟨hzone, hres⟩ := h
      rw [if_neg hfewer]
      refine ⟨hzone, fun hne => ?_⟩
      rw [hres rfl hne, ready, u16, BitVec.ofInt_natCast]
      rfl

end Sys2Proof.Machine
end

section
/-! ### Distances and result words as the statements write them, and three operations in a row (R13, R66, R94) -/
namespace Sys2Proof.Machine

open Sys2Proof.Safety

theorem le_distance_iff {n : Nat} {a b : Int} : n ≤ distance a b ↔ (n : Int) ≤ |a - b| := by
  rw [distance, Int.abs_eq_natAbs, Int.ofNat_le]

/-- The result word of a code narrower than a word. -/
theorem ready_code {w : Nat} (hw : w ≤ 16) (v : BitVec w) : ready (v.toNat : Int) = v.setWidth 17 := by
  have hv : v.toNat < 2 ^ 16 := v.isLt.trans_le (Nat.pow_le_pow_right (by decide) hw)
  apply BitVec.eq_of_toNat_eq
  rw [ready, readyWord, u16, BitVec.ofInt_natCast, BitVec.toNat_append, BitVec.toNat_ofNat, BitVec.toNat_setWidth]
  simp only [BitVec.toNat_ofNat, Nat.zero_mod, Nat.zero_shiftLeft, Nat.zero_or]
  omega

theorem runOps_three {i j l : Instr} {s t u v : State} (hi : exec i s = .next t) (hj : exec j t = .next u)
    (hl : exec l u = .next v) : runOps [i, j, l] s = some v := by
  rw [runOps_cons hi, runOps_two hj hl]

end Sys2Proof.Machine
end

section
/-! ### DC-level debounce (R166 to R168) -/
namespace Sys2Proof.Machine

open Sys2Proof.Safety

/-- The report of a level held for DC_CONSIST samples (R166). -/
def reportOf (level : Bool) : DcResult := if level then .high else .low

theorem ready_pending : ready (dcCode .pending) = 0 := by decide

theorem ready_reportOf : ∀ level : Bool, ready (dcCode (reportOf level)) = if level = true then 2 else 1 := by decide

theorem debounceNext_mismatch {d : DebounceRecord} {level : Bool} (h : level ≠ d.cand) :
    debounceNext d level = (⟨level, 1⟩, .pending) := if_pos h

theorem debounceNext_match {d : DebounceRecord} {level : Bool} (h : level = d.cand) :
    debounceNext d level =
      (⟨level, BitVec.ofNat 8 (min (d.cnt.toNat + 1) 3)⟩, if 2 ≤ d.cnt.toNat then reportOf level else .pending) := by
  have hreport : dcConsist ≤ satInc d.cnt.toNat dcConsist ↔ 2 ≤ d.cnt.toNat := by
    unfold satInc dcConsist
    omega
  subst h
  rw [debounceNext, if_neg (fun h => h rfl)]
  simp only [hreport]
  rfl

/-- At least `n` samples in a row of a level. -/
def Seen (level : Bool) (n : Nat) (d : DebounceRecord) : Prop := d.cand = level ∧ n ≤ d.cnt.toNat

/-- Whatever the record, it has seen the level it has just sampled. -/
theorem seen_one (d : DebounceRecord) (level : Bool) : Seen level 1 (debounceNext d level).1 := by
  by_cases h : level = d.cand
  · rw [debounceNext_match h]
    refine ⟨rfl, ?_⟩
    simp only [BitVec.toNat_ofNat]
    omega
  · rw [debounceNext_mismatch h]
    exact ⟨rfl, le_rfl⟩

theorem Seen.next_two {d : DebounceRecord} {level : Bool} (h : Seen level 1 d) :
    Seen level 2 (debounceNext d level).1 := by
  obtain ⟨hcand, hcnt⟩ := h
  rw [debounceNext_match hcand.symm]
  refine ⟨rfl, ?_⟩
  simp only [BitVec.toNat_ofNat]
  omega

theorem Seen.reports {d : DebounceRecord} {level : Bool} (h : Seen level 2 d) :
    (debounceNext d level).2 = reportOf level := by
  obtain ⟨hcand, hcnt⟩ := h
  rw [debounceNext_match hcand.symm]
  exact if_pos hcnt

/-- A sample of the other level restarts the count (R167). -/
theorem Seen.next_other {d : DebounceRecord} {level : Bool} {n : Nat} (h : Seen (!level) n d) :
    debounceNext d level = (⟨level, 1⟩, .pending) := by
  obtain ⟨hcand, _⟩ := h
  exact debounceNext_mismatch (by rw [hcand]; cases level <;> decide)

/-- Settles O37, by whether the sample matches the candidate level. -/
theorem debounceStepFollowsTheSample : Obligations.DebounceStepFollowsTheSample := by
  refine ⟨rfl, rfl, rfl, rfl, fun k level s => ?_⟩
  rw [exec_command (i := .dcdStep k level) rfl nofun nofun, effectOf, resultOf]
  by_cases h : level = (s.dc.get k).cand
  · rw [debounceNext_match h, if_neg (not_not.mpr h)]
    by_cases hcnt : 2 ≤ (s.dc.get k).cnt.toNat
    · rw [if_pos hcnt, if_pos hcnt, ready_reportOf]
      rfl
    · rw [if_neg hcnt, if_neg hcnt, ready_pending]
      rfl
  · rw [debounceNext_mismatch h, if_pos h, ready_pending]
    rfl

/-- Three samples in a row on an idle block. -/
theorem runOps_three_samples {s : State} (hs : s.cseq = 0) (k : Channel) (a b c : Bool) :
    ∃ t, runOps [.dcdStep k a, .dcdStep k b, .dcdStep k c] s = some t ∧
      t.dc.get k = (debounceNext (debounceNext (debounceNext (s.dc.get k) a).1 b).1 c).1 ∧
      t.res = ready (dcCode (debounceNext (debounceNext (debounceNext (s.dc.get k) a).1 b).1 c).2) := by
  have hsample (level : Bool) {u : State} (hu : u.cseq = 0) :=
    exec_command_idle (i := .dcdStep k level) rfl nofun hu
  refine ⟨_, runOps_three (hsample a hs) (hsample b hs) (hsample c hs), ?_, ?_⟩ <;> simp [effectOf, resultOf]

/-- Settles O38: the count runs 1, 2, report, and the other level in between restarts it. -/
theorem debounceNeedsThreeEqualSamples : Obligations.DebounceNeedsThreeEqualSamples := by
  intro k level s hs
  constructor
  · obtain ⟨t, ht, _, hres⟩ := runOps_three_samples hs k level level level
    refine ⟨t, ht, ?_⟩
    rw [hres, (seen_one (s.dc.get k) level).next_two.reports, ready_reportOf]
  · obtain ⟨t, ht, hdc, hres⟩ := runOps_three_samples hs k level (!level) level
    rw [(seen_one _ (!level)).next_other] at hdc hres
    exact ⟨t, ht, hres.trans ready_pending, hdc⟩

end Sys2Proof.Machine
end

section
/-! ### LDBAND, the local branch of COND, and EV_PIN (R161, R171, R176) -/
namespace Sys2Proof.Machine

open Sys2Proof.Safety

theorem not_adcReadable_iff (s : State) : ¬ adcReadable s = true ↔ s.adc.inProg = true ∨ s.adc.pubv = false := by
  rw [adcReadable_iff, not_and_or, Bool.not_eq_false, Bool.not_eq_true]

/-- LDBAND holds while the ADC engine is not ready (R161). -/
theorem loadBand_unready {s : State} (h : ¬ adcReadable s = true) (c : AdcChannel) : loadBand CFG c s = s := if_neg h

theorem loadBandResult_unready {s : State} (h : ¬ adcReadable s = true) (c : AdcChannel) :
    loadBandResult CFG c s = notReady := if_neg h

/-- LDBAND in any state: dropped while a control cycle runs, holding and returning NOT_READY when the ADC engine is not
ready, else what it does on published values (R161). -/
theorem exec_ldband {c : AdcChannel} {s t : State}
    (hready : adcReadable s = true → setRes (loadBand CFG c s) (loadBandResult CFG c s) = t) :
    exec (.ldband c) s = .next (
      if s.cseq ≠ 0 then s
      else if s.adc.inProg = true ∨ s.adc.pubv = false then { s with res := 0x1FFFF#17 } else t) := by
  rw [exec_command (i := .ldband c) rfl nofun nofun, effectOf, resultOf]
  by_cases h : adcReadable s = true
  · rw [hready h, if_neg ((not_adcReadable_iff s).not.mp (not_not.mpr h))]
  · rw [if_pos ((not_adcReadable_iff s).mp h), loadBand_unready h, loadBandResult_unready h]
    rfl

/-- Settles O33: `exec_ldband` for each of the three published values. -/
theorem ldbandLoadsOrHolds : Obligations.LdbandLoadsOrHolds := by
  refine ⟨rfl, rfl, rfl, decode_illegalSelector (by decide), fun s => exec_ldband fun h => ?_,
    fun s => exec_ldband fun h => ?_, fun s => exec_ldband fun h => ?_⟩ <;>
  · unfold loadBand loadBandResult
    rw [if_pos h, if_pos h]
    dsimp only
    rw [ready_code (by decide)]
    rfl

theorem localMap_toNat : ∀ band : BitVec 3, (localMap band).toNat = if band.toNat ≤ 4 then 250 * band.toNat else 0 := by
  decide

theorem condition_local {k : Channel} {s : State} (h : (s.cc.get k).band ≠ bandExternal) :
    condition CFG k s = localBranch k s := if_neg h

/-- Settles O39: COND is a command whose effect is one write of its channel's control record. -/
theorem condLocalMapsTheBand : Obligations.CondLocalMapsTheBand := by
  refine ⟨rfl, rfl, fun k s h => ⟨localMap (s.cc.get k).band, localMap_toNat _, ?_⟩⟩
  rw [exec_command (i := .cond k) rfl nofun nofun, effectOf, resultOf, condition_local h, localBranch, setCc_cc,
    Pair.get_set_same]
  rfl

/-- Settles O45: EV_PIN is performed in every state, and its effect is one write of a pin. -/
theorem pinEventSetsTheLevel : Obligations.PinEventSetsTheLevel :=
  ⟨rfl, rfl, rfl, rfl, fun k level s => exec_event_or_ustep (i := .evPin k level) (.inl rfl) s⟩

end Sys2Proof.Machine
end

section
/-! ### Power limit, output gate, and CHAN (R173 to R175) -/
namespace Sys2Proof.Machine

open Sys2Proof.Safety

/-- Scaling by a tier's fraction, at most 1, and truncating leaves a value between 0 and the one scaled (R11, R173). -/
theorem tdiv_tier_between (tier : BitVec 2) (v : Int) :
    min v 0 ≤ tdiv (v * CFG.tierNum tier) (CFG.tierDen tier) ∧
      tdiv (v * CFG.tierNum tier) (CFG.tierDen tier) ≤ max v 0 := by
  have hd : (0 : Int) < CFG.tierDen tier := Int.ofNat_lt.mpr (CFG_wf.tierDen_pos tier)
  have hn : (CFG.tierNum tier : Int) ≤ CFG.tierDen tier := Int.ofNat_le.mpr (CFG_wf.tierNum_le tier)
  have hn0 : (0 : Int) ≤ CFG.tierNum tier := Int.natCast_nonneg _
  rcases le_total 0 v with hv | hv
  · rw [min_eq_right hv, max_eq_left hv]
    exact tdiv_between hd (by simpa using mul_nonneg hv hn0) (mul_le_mul_of_nonneg_left hn hv)
  · rw [min_eq_left hv, max_eq_right hv]
    exact tdiv_between hd (mul_le_mul_of_nonpos_left hn hv)
      (by simpa using mul_nonpos_of_nonpos_of_nonneg hv hn0)

/-- The narrowing loses nothing (R173). -/
theorem limited_toInt (tier : BitVec 2) (w : Word) :
    (limited CFG tier w).toInt = tdiv (w.toInt * CFG.tierNum tier) (CFG.tierDen tier) := by
  obtain ⟨hl, hu⟩ := tdiv_tier_between tier (s16 w)
  have hl' := s16_lower w
  have hu' := s16_upper w
  rw [← s16_eq_toInt, ← s16_eq_toInt, limited, s16_u16 (by omega) (by omega)]

/-- Settles O42: the scaled value is exact, and PLIM is a command whose effect is one write of its channel's control
record. -/
theorem powerLimitScalesByTheTier : Obligations.PowerLimitScalesByTheTier := by
  refine ⟨rfl, rfl, fun k s => ⟨limited CFG s.tier (s.cc.get k).inval, ?_, ?_, ?_⟩⟩
  · rw [limited_toInt, tdiv_eq]
  · obtain ⟨hl, hu⟩ := tdiv_tier_between s.tier (s.cc.get k).inval.toInt
    rw [limited_toInt, Int.abs_eq_natAbs, Int.abs_eq_natAbs]
    omega
  · rw [exec_command (i := .plim k) rfl nofun nofun, effectOf, resultOf, powerLimit, setCc_cc, Pair.get_set_same]
    rfl

theorem clampedDuty_toNat (w : Word) : ((clampedDuty w).toNat : Int) = max 0 (min w.toInt 1000) := by
  have hm : (dutyMax : Int) = 1000 := rfl
  obtain ⟨hl, hu⟩ := @clamp_bounds (s16 w) 0 dutyMax (by decide)
  rw [clampedDuty, u16_toNat hl (by omega), Int.toNat_of_nonneg hl, clamp, s16_eq_toInt]
  omega

/-- OUTG rewrites its channel's output register, or leaves the state as it is (R174). -/
theorem outputGate_eq (k : Channel) (s : State) :
    outputGate CFG k s =
      if (CFG.outGate : Int) ≤ |(s.cc.get k).outval.toInt - (s.duty.get k).toNat| then
        emit (setDuty s k (clampedDuty (s.cc.get k).outval)) (.dutyWr k (clampedDuty (s.cc.get k).outval))
      else s := by
  rw [outputGate, s16_eq_toInt]
  exact if_congr le_distance_iff rfl rfl

/-- Settles O43, by whether the gate passes. -/
theorem outputGateWritesOnlyRealChanges : Obligations.OutputGateWritesOnlyRealChanges := by
  refine ⟨rfl, rfl, fun k s => ⟨clampedDuty (s.cc.get k).outval, clampedDuty_toNat _, ?_⟩⟩
  rw [exec_command (i := .outg k) rfl nofun nofun, effectOf, resultOf, outputGate_eq]
  by_cases h : (CFG.outGate : Int) ≤ |(s.cc.get k).outval.toInt - (s.duty.get k).toNat|
  · rw [if_pos h, if_pos h, emit_duty, setDuty_duty, Pair.get_set_same]
    rfl
  · rw [if_neg h, if_neg h]
    rfl

theorem outputGate_setRes (k : Channel) (s : State) (r : ResultWord) :
    outputGate CFG k (setRes s r) = setRes (outputGate CFG k s) r := by
  unfold outputGate
  rw [setRes_cc, setRes_duty]
  split <;> rfl

theorem powerLimit_setRes (k : Channel) (s : State) (r : ResultWord) :
    powerLimit CFG k (setRes s r) = setRes (powerLimit CFG k s) r := rfl

theorem condition_cseq (k : Channel) (s : State) : (condition CFG k s).cseq = s.cseq :=
  (effectOf_row (i := .cond k) nofun s).cseq nofun

/-- Settles O44: the results of COND and PLIM are overwritten and read by nothing, and while a control cycle runs every
command in question is dropped. -/
theorem chanIsCondPlimOutg : Obligations.ChanIsCondPlimOutg := by
  refine ⟨rfl, rfl, fun k s => ?_⟩
  by_cases hs : s.cseq = 0
  · have hcond : (condition CFG k s).cseq = 0 := (condition_cseq k s).trans hs
    refine ⟨_, exec_command_idle (i := .chan k) rfl nofun hs, ?_, fun _ => rfl⟩
    rw [runOps_three (exec_command_idle (i := .cond k) rfl nofun hs)
      (exec_command_idle (i := .plim k) rfl nofun hcond) (exec_command_idle (i := .outg k) rfl nofun hcond)]
    simp only [effectOf, resultOf, powerLimit_setRes, outputGate_setRes]
    rfl
  · have hdropped {i : Instr} (hp : i.port = .command) (hu : i ≠ .ustep) (hn : i ≠ .nop) : exec i s = .next s :=
      exec_command_busy hp hu hn hs
    exact ⟨s, hdropped rfl nofun nofun,
      runOps_three (hdropped rfl nofun nofun) (hdropped rfl nofun nofun) (hdropped rfl nofun nofun),
      fun h => absurd h hs⟩

end Sys2Proof.Machine
end

section
/-! ### The external branch of COND (R170, R172) -/
namespace Sys2Proof.Machine

open Sys2Proof.Safety

variable {k : Channel} {s : State}

theorem timeoutNext_toNat (r : CapRecord) (cc : ControlRecord) :
    (timeoutNext r cc).toNat = if r.done = true then 0 else min (cc.tmo.toNat + 1) 2 := by
  unfold timeoutNext satInc tmoMax
  split
  · rfl
  · rw [BitVec.toNat_ofNat]
    omega

/-- The DC path is taken from the second cycle in a row without a ready capture (R170). -/
theorem dcPath_iff (r : CapRecord) (cc : ControlRecord) : dcPath r cc = true ↔ r.done = false ∧ cc.tmo ≠ 0 := by
  rw [dcPath, Bool.and_eq_true, Bool.not_eq_true', decide_eq_true_iff, timeoutNext_toNat, tmoMax]
  refine and_congr_right fun hdone => ?_
  rw [if_neg (ne_true_of_eq_false hdone), Ne, ← BitVec.toNat_inj]
  change _ ↔ ¬ cc.tmo.toNat = 0
  omega

/-- Step 2.1 of R170: the debounce after it and the candidate, from a ready capture, held, or from the DC level. -/
theorem debounceAfter_candidate (r : CapRecord) (cc : ControlRecord) (d : DebounceRecord) (pin : Bool) :
    (debounceAfter r cc d pin, candidate CFG r cc d pin) =
      if r.done = true then (d, (CFG.capScale r.duty : Int))
      else if cc.tmo = 0 then (d, cc.inval.toInt)
      else ((debounceNext d pin).1,
        match (debounceNext d pin).2 with
        | .pending => cc.inval.toInt
        | .low => 0
        | .high => 1000) := by
  unfold debounceAfter candidate
  rw [s16_eq_toInt]
  by_cases hdone : r.done = true
  · have hnot : ¬ dcPath r cc = true := fun h => ne_true_of_eq_false ((dcPath_iff r cc).mp h).left hdone
    rw [if_neg hnot, if_pos hdone, if_pos hdone]
  · rw [if_neg hdone, if_neg hdone]
    by_cases htmo : cc.tmo = 0
    · have hnot : ¬ dcPath r cc = true := fun h => ((dcPath_iff r cc).mp h).right htmo
      rw [if_neg hnot, if_neg hnot, if_pos htmo]
    · have hdc : dcPath r cc = true := (dcPath_iff r cc).mpr ⟨eq_false_of_ne_true hdone, htmo⟩
      rw [if_pos hdc, if_pos hdc, if_neg htmo]
      rfl

theorem switchFilter_eq (mode : Mode) (e : EwRecord) (t : Int) :
    switchFilter mode e t = if mode = .localMode then { e with avg := BitVec.ofInt 16 t, first := false } else e := by
  cases mode <;> rfl

theorem gatePasses_iff {t : Int} {inval : Word} :
    gatePasses CFG t inval = true ↔ (CFG.changeWindow : Int) ≤ |t - inval.toInt| := by
  rw [gatePasses, decide_eq_true_iff, le_distance_iff, s16_eq_toInt]

theorem gatedFilter_eq (e : EwRecord) (t : Int) (inval : Word) :
    gatedFilter CFG e t inval =
      if (CFG.changeWindow : Int) ≤ |t - inval.toInt| then
        ewUpdate e CFG.ewmaEnable t CFG.ewmaDeadBand.toInt CFG.ewmaMaxErr.toInt
      else e := by
  rw [gatedFilter, s16_eq_toInt, s16_eq_toInt]
  exact if_congr gatePasses_iff rfl rfl

theorem gatedInval_eq (e : EwRecord) (t : Int) (inval : Word) :
    gatedInval CFG e t inval =
      if (CFG.changeWindow : Int) ≤ |t - inval.toInt| then (gatedFilter CFG e t inval).avg else inval :=
  if_congr gatePasses_iff rfl rfl

@[simp] theorem externalBranch_ew_get (k : Channel) (s : State) :
    (externalBranch CFG k s).ew.get k =
      gatedFilter CFG (switchedFilter k s) (externalLock k s).2 (s.cc.get k).inval := by
  rw [externalBranch_eq, setCc_ew, setEw_ew, Pair.get_set_same]

@[simp] theorem externalBranch_cc_get (k : Channel) (s : State) :
    (externalBranch CFG k s).cc.get k =
      { s.cc.get k with
        tmo := timeoutNext (s.cap.get k) (s.cc.get k)
        mode := .externalMode
        inval := gatedInval CFG (switchedFilter k s) (externalLock k s).2 (s.cc.get k).inval } := by
  rw [externalBranch_eq, setCc_cc, Pair.get_set_same]

theorem exec_cond_external (hs : s.cseq = 0) (hband : (s.cc.get k).band = 5) :
    exec (.cond k) s = .next (setRes (externalBranch CFG k s)
      (readyWord (gatedInval CFG (switchedFilter k s) (externalLock k s).2 (s.cc.get k).inval))) := by
  have hcond : condition CFG k s = externalBranch CFG k s := if_pos hband
  rw [exec_command_idle (i := .cond k) rfl nofun hs, effectOf, resultOf, hcond, externalBranch_cc_get]

/-- Settles O40: the parts of `externalBranch`, each as R170 states it. -/
theorem condExternalFollowsThePipeline : Obligations.CondExternalFollowsThePipeline := by
  intro k s hs hband
  refine ⟨_, _, _, switchedFilter k s, _, timeoutNext_toNat (s.cap.get k) (s.cc.get k),
    debounceAfter_candidate (s.cap.get k) (s.cc.get k) (s.dc.get k) (s.pinLvl.get k), switchFilter_eq _ _ _,
    exec_cond_external hs hband, ?_, ?_⟩
  · rw [setRes_ew, externalBranch_ew_get, gatedFilter_eq]
    rfl
  · rw [setRes_ew, setRes_cc, externalBranch_ew_get, externalBranch_cc_get, externalBranch_eq, gatedInval_eq]
    rfl

/-- The candidate fits S16, whatever the input value is (R170). -/
theorem candidate_fits (r : CapRecord) (cc : ControlRecord) (d : DebounceRecord) (pin : Bool) :
    -32768 ≤ candidate CFG r cc d pin ∧ candidate CFG r cc d pin ≤ 32767 := by
  have hmax : (dutyMax : Int) = 1000 := rfl
  have hscale := CFG_wf.capScale_le r.duty
  have hl := s16_lower cc.inval
  have hu := s16_upper cc.inval
  unfold candidate
  repeat' split
  all_goals omega

/-- So does the lock's output: it is the candidate, a rail or the high-enter threshold (R165). -/
theorem externalLock_fits (k : Channel) (s : State) :
    -32768 ≤ (externalLock k s).2 ∧ (externalLock k s).2 ≤ 32767 := by
  have hmax : (dutyMax : Int) = 1000 := rfl
  have hhigh := CFG_wf.highEnter_le
  have hcand := candidate_fits (s.cap.get k) (s.cc.get k) (s.dc.get k) (s.pinLvl.get k)
  rw [externalLock]
  rcases lockNext_output CFG (s.lk.get k)
    (candidate CFG (s.cap.get k) (s.cc.get k) (s.dc.get k) (s.pinLvl.get k)) with e | e | e | e <;> rw [e]
  · exact hcand
  all_goals omega

/-- An update whose sample is the average itself leaves the average, whatever the filter's parameters are (R203). -/
theorem ewUpdate_average (e : EwRecord) (en : Bool) (db me : Int) :
    (ewUpdate e en (s16 e.avg) db me).avg = e.avg := by
  unfold ewUpdate
  split
  · rfl
  · next hactive =>
    have hlen : 0 < s16 e.len := by
      by_contra hlen
      exact hactive (by simp [filterNeutral]; omega)
    have hweighted : weightedAverage (s16 e.avg) (s16 e.len) (s16 e.avg) = s16 e.avg := by
      obtain ⟨hl, hu⟩ := weightedAverage_between hlen (le_refl (s16 e.avg)) le_rfl le_rfl le_rfl
      exact le_antisymm hu hl
    rw [hweighted, u16_s16]
    split
    · rfl
    · split
      · rfl
      · split <;> rfl

theorem ewUpdate_first {e : EwRecord} (h : e.first = false) (en : Bool) (x db me : Int) :
    (ewUpdate e en x db me).first = false := by
  unfold ewUpdate
  split
  · exact h
  · split
    · rfl
    · split
      · exact h
      · split <;> exact h

/-- After a Local cycle the filter holds the post-lock target, and the change gate's update of it with the same target
leaves it there (R172). -/
theorem gatedFilter_of_switched (hmode : (s.cc.get k).mode = .localMode) (inval : Word) :
    (gatedFilter CFG (switchedFilter k s) (externalLock k s).2 inval).avg = u16 (externalLock k s).2 ∧
      (gatedFilter CFG (switchedFilter k s) (externalLock k s).2 inval).first = false := by
  obtain ⟨hl, hu⟩ := externalLock_fits k s
  have hswitched : switchedFilter k s = ewReset (s.ew.get k) (externalLock k s).2 := by
    rw [switchedFilter, hmode]
    rfl
  have havg : s16 (switchedFilter k s).avg = (externalLock k s).2 := by
    rw [hswitched, ewReset]
    exact s16_u16 hl hu
  have hfirst : (switchedFilter k s).first = false := by rw [hswitched]; rfl
  rw [← havg, u16_s16]
  unfold gatedFilter
  split
  · exact ⟨ewUpdate_average _ _ _ _, ewUpdate_first hfirst _ _ _ _⟩
  · exact ⟨rfl, hfirst⟩

/-- Settles O41: the filter holds the target (`gatedFilter_of_switched`), and the input value takes it if the change
gate passes. -/
theorem modeSwitchHasNoSmoothingLag : Obligations.ModeSwitchHasNoSmoothingLag := by
  intro k s hs hband hmode
  obtain ⟨havg, hfirst⟩ := gatedFilter_of_switched hmode (s.cc.get k).inval
  obtain ⟨hl, hu⟩ := externalLock_fits k s
  have htarget : (u16 (externalLock k s).2).toInt = (externalLock k s).2 := by rw [← s16_eq_toInt, s16_u16 hl hu]
  refine ⟨(externalLock k s).2, _, rfl, exec_cond_external hs hband, ?_⟩
  rw [setRes_ew, setRes_cc, externalBranch_ew_get, externalBranch_cc_get, havg, hfirst]
  refine ⟨htarget, rfl, rfl, ?_⟩
  rw [gatedInval_eq, havg]
  by_cases hgate : (CFG.changeWindow : Int) ≤ |(externalLock k s).2 - (s.cc.get k).inval.toInt|
  · rw [if_pos hgate, if_pos hgate]
    exact htarget
  · rw [if_neg hgate, if_neg hgate]
    exact ⟨rfl, by rw [abs_sub_comm]; exact lt_of_not_ge hgate⟩

end Sys2Proof.Machine
end

section
/-! ### The commands of the EWMA filter (R201 to R204) -/
namespace Sys2Proof.Machine

theorem lt_distance_iff {v a b : Int} : v < (distance a b : Int) ↔ v < |a - b| := by
  rw [distance, Int.abs_eq_natAbs]

theorem filterNeutral_iff {enabled : Bool} {len : Word} {deadBand maxError : Int} :
    filterNeutral enabled len deadBand maxError = true ↔
      enabled = false ∨ len.toInt ≤ 0 ∨ maxError < deadBand := by
  rw [filterNeutral, s16_eq_toInt, Bool.or_eq_true, Bool.or_eq_true, Bool.not_eq_true', decide_eq_true_iff,
    decide_eq_true_iff, or_assoc]

/-- The update by a word, in the signed values of the words: neutralised, first sample, rejected, adopted or weighted
(R203). -/
theorem ewUpdate_eq (e : EwRecord) (enabled : Bool) (sample deadBand maxError : Word) :
    ewUpdate e enabled (s16 sample) (s16 deadBand) (s16 maxError) =
      if enabled = false ∨ e.len.toInt ≤ 0 ∨ maxError.toInt < deadBand.toInt then e
      else if e.first = true then { e with avg := sample, first := false }
      else if maxError.toInt < |sample.toInt - e.avg.toInt| then e
      else if deadBand.toInt < |sample.toInt - e.avg.toInt| then { e with avg := sample }
      else { e with avg := u16 (weightedAverage e.avg.toInt e.len.toInt sample.toInt) } := by
  rw [ewUpdate, u16_s16]
  simp only [s16_eq_toInt]
  exact if_congr filterNeutral_iff rfl (if_congr Iff.rfl rfl
    (if_congr lt_distance_iff rfl (if_congr lt_distance_iff rfl rfl)))

/-- The average an update leaves is the old one, the sample, or, with a positive length, the weighted one (R203). -/
theorem ewUpdate_avg_cases (e : EwRecord) (enabled : Bool) (sample deadBand maxError : Word) :
    (ewUpdate e enabled (s16 sample) (s16 deadBand) (s16 maxError)).avg = e.avg ∨
    (ewUpdate e enabled (s16 sample) (s16 deadBand) (s16 maxError)).avg = sample ∨
    (0 < e.len.toInt ∧ (ewUpdate e enabled (s16 sample) (s16 deadBand) (s16 maxError)).avg =
      u16 (weightedAverage e.avg.toInt e.len.toInt sample.toInt)) := by
  rw [ewUpdate_eq]
  split
  · exact .inl rfl
  · next hactive =>
    have hlen : 0 < e.len.toInt := by
      by_contra hlen
      exact hactive (.inr (.inl (not_lt.mp hlen)))
    split
    · exact .inr (.inl rfl)
    · split
      · exact .inl rfl
      · split
        · exact .inr (.inl rfl)
        · exact .inr (.inr ⟨hlen, rfl⟩)

/-- `weightedAverage_between` at the closest bounds (R204). -/
theorem weightedAverage_min_max {len : Int} (hlen : 0 < len) (avg sample : Int) :
    min avg sample ≤ weightedAverage avg len sample ∧ weightedAverage avg len sample ≤ max avg sample :=
  weightedAverage_between hlen (min_le_left _ _) (le_max_left _ _) (min_le_right _ _) (le_max_right _ _)

/-- Lying between two S16 values, the weighted average is narrowed without loss (R204). -/
theorem u16_weightedAverage_toInt {len : Int} (hlen : 0 < len) (avg sample : Word) :
    (u16 (weightedAverage avg.toInt len sample.toInt)).toInt = weightedAverage avg.toInt len sample.toInt := by
  simp only [← s16_eq_toInt]
  obtain ⟨hl, hu⟩ := weightedAverage_min_max hlen (s16 avg) (s16 sample)
  have havg := s16_lower avg
  have havg' := s16_upper avg
  have hsample := s16_lower sample
  have hsample' := s16_upper sample
  exact s16_u16 (by omega) (by omega)

/-- The average an update leaves lies between the old one and the sample (R204). -/
theorem ewUpdate_avg_between (e : EwRecord) (enabled : Bool) (sample deadBand maxError : Word) :
    min e.avg.toInt sample.toInt ≤ (ewUpdate e enabled (s16 sample) (s16 deadBand) (s16 maxError)).avg.toInt ∧
    (ewUpdate e enabled (s16 sample) (s16 deadBand) (s16 maxError)).avg.toInt ≤ max e.avg.toInt sample.toInt := by
  rcases ewUpdate_avg_cases e enabled sample deadBand maxError with h | h | ⟨hlen, h⟩ <;> rw [h]
  · exact ⟨min_le_left _ _, le_max_left _ _⟩
  · exact ⟨min_le_right _ _, le_max_right _ _⟩
  · rw [u16_weightedAverage_toInt hlen]
    exact weightedAverage_min_max hlen _ _

/-- Settles O46: EW_INIT is a command whose effect is one write of its channel's filter. -/
theorem ewInitSeedsTheFilter : Obligations.EwInitSeedsTheFilter := by
  refine ⟨rfl, rfl, rfl, rfl, fun k enabled initial length s => ?_⟩
  rw [exec_command (i := .ewInit k enabled initial length) rfl nofun nofun]
  rfl

/-- Settles O47: EW_RESET is a command whose effect is one write of its channel's filter. -/
theorem ewResetForcesTheAverage : Obligations.EwResetForcesTheAverage := by
  refine ⟨rfl, rfl, fun k value s => ?_⟩
  rw [exec_command (i := .ewReset k value) rfl nofun nofun, effectOf, resultOf, ewReset, u16_s16]
  rfl

/-- Settles O48: EW_UPDATE is a command whose effect is one write of its channel's filter, the record `ewUpdate_eq`
gives. -/
theorem ewUpdateFollowsTheRule : Obligations.EwUpdateFollowsTheRule := by
  refine ⟨rfl, rfl, rfl, rfl, fun k enabled sample deadBand maxError s =>
    ⟨ewUpdate (s.ew.get k) enabled (s16 sample) (s16 deadBand) (s16 maxError), ?_, ?_⟩⟩
  · rw [ewUpdate_eq, weightedAverage, tdiv_eq]
    rfl
  · rw [exec_command (i := .ewUpdate k enabled sample deadBand maxError) rfl nofun nofun]
    rfl

/-- Settles O49: the three values the average can take (`ewUpdate_avg_cases`), each between the old average and the
sample. -/
theorem ewUpdateStaysBetweenAverageAndSample : Obligations.EwUpdateStaysBetweenAverageAndSample := by
  intro k enabled sample deadBand maxError s hs
  refine ⟨_, exec_command_idle (i := .ewUpdate k enabled sample deadBand maxError) rfl nofun hs, ?_⟩
  rw [setRes_ew, effectOf, setEw_ew, Pair.get_set_same]
  obtain ⟨hl, hu⟩ := ewUpdate_avg_between (s.ew.get k) enabled sample deadBand maxError
  refine ⟨?_, hl, hu, fun havg hsample => ewUpdate_inDuty havg enabled hsample _ _⟩
  refine (ewUpdate_avg_cases (s.ew.get k) enabled sample deadBand maxError).imp_right (Or.imp_right ?_)
  rintro ⟨hlen, h⟩
  exact ⟨hlen, by rw [h, u16_weightedAverage_toInt hlen, weightedAverage, tdiv_eq]⟩

end Sys2Proof.Machine
end

section
/-! ### The sequencer index and the operations (R218 to R220)

Only the effects of CYCLE and USTEP read or write SYS.CSEQ: whether an operation is accepted may depend on the index,
what every other one does once accepted does not. -/
namespace Sys2Proof.Machine

theorem adcStart_setCseq (force : Bool) (s : State) (n : BitVec 4) :
    adcStart force (setCseq s n) = setCseq (adcStart force s) n := by
  unfold adcStart
  rw [apply_ite (setCseq · n)]
  rfl

theorem loadBand_setCseq (c : AdcChannel) (s : State) (n : BitVec 4) :
    loadBand CFG c (setCseq s n) = setCseq (loadBand CFG c s) n := by
  unfold loadBand
  rw [apply_ite (setCseq · n)]
  cases c <;> rfl

theorem condition_setCseq (k : Channel) (s : State) (n : BitVec 4) :
    condition CFG k (setCseq s n) = setCseq (condition CFG k s) n := by
  unfold condition
  rw [apply_ite (setCseq · n)]
  rfl

theorem powerLimit_setCseq (k : Channel) (s : State) (n : BitVec 4) :
    powerLimit CFG k (setCseq s n) = setCseq (powerLimit CFG k s) n := rfl

theorem outputGate_setCseq (k : Channel) (s : State) (n : BitVec 4) :
    outputGate CFG k (setCseq s n) = setCseq (outputGate CFG k s) n := by
  unfold outputGate
  rw [apply_ite (setCseq · n)]
  rfl

theorem channelPipeline_setCseq (k : Channel) (s : State) (n : BitVec 4) :
    channelPipeline CFG k (setCseq s n) = setCseq (channelPipeline CFG k s) n := by
  simp only [channelPipeline, condition_setCseq, powerLimit_setCseq, outputGate_setCseq]

/-- Of the operations only CYCLE and USTEP have an effect that depends on the sequencer index or changes it. -/
theorem effectOf_setCseq {i : Instr} (hc : i ≠ .cycle) (hu : i ≠ .ustep) (s : State) (n : BitVec 4) :
    effectOf i (setCseq s n) = setCseq (effectOf i s) n := by
  cases i with
  | cycle => exact absurd rfl hc
  | ustep => exact absurd rfl hu
  | adcStart force => exact adcStart_setCseq force s n
  | ldband c => exact loadBand_setCseq c s n
  | cond k => exact condition_setCseq k s n
  | outg k => exact outputGate_setCseq k s n
  | chan k => exact channelPipeline_setCseq k s n
  | evAdc raw => simp only [effectOf, conversionComplete_eq_updateAdc]; rfl
  | evRise ch time => simp only [effectOf, risingEdge_eq_updateCap]; rfl
  | evFall ch time => simp only [effectOf, fallingEdge_eq_updateCap]; rfl
  | _ => rfl

/-- The control cycle does not start another (R219). -/
theorem controlCycle_ne_cycle {n : Nat} {i : Instr} (h : Statements.controlCycle n = some i) : i ≠ .cycle := by
  rintro rfl
  unfold Statements.controlCycle at h
  split at h <;> cases h

theorem sequencerStep_idle {s : State} (hs : s.cseq = 0) : sequencerStep CFG s = s :=
  if_neg (Bool.eq_false_iff.mp ((idle_iff s).mpr hs))

/-- A micro-step has the effect of the command it stands for, and advances the index (R219, R220). -/
theorem sequencerStep_of_controlCycle {s : State} {i : Instr} (h : Statements.controlCycle s.cseq.toNat = some i) :
    sequencerStep CFG s = setCseq (effectOf i s) (nextCseq s.cseq) := by
  have hs : s.cseq ≠ 0 := by
    intro h0
    rw [h0] at h
    cases h
  rw [sequencerStep, if_pos ((busy_iff s).mpr hs), microStep_eq, h]
  rfl

/-- Settles O16: the command's effect is the same at index 0 (`effectOf_setCseq`), and leaves RES alone. -/
theorem ustepPerformsTheMicroStep : Obligations.UstepPerformsTheMicroStep := by
  refine ⟨rfl, fun s hs => congrArg Host.Outcome.next (sequencerStep_idle hs), fun s i h => ?_⟩
  have hu := controlCycle_ne_ustep h
  refine ⟨_, exec_command_idle (controlCycle_port h) hu (s := setCseq s 0) rfl, ?_⟩
  rw [effectOf_setCseq (controlCycle_ne_cycle h) hu, ← effectOf_res i s]
  exact congrArg Host.Outcome.next (sequencerStep_of_controlCycle h)

/-- Settles O17: a word on the command port is a command, which is not accepted, or no operation of that port; and the
effect of an event does not depend on the index (`effectOf_setCseq`). -/
theorem commandsWhileBusyAreDropped : Obligations.CommandsWhileBusyAreDropped := by
  refine ⟨fun s w rest hs hin hnop hustep => ?_, fun s i n hp => ?_⟩
  · rcases classify_cases .command w with ⟨i, hd, hp, _⟩ | ⟨_, _, _, hc⟩ | ⟨_, _, _, hc⟩ | ⟨_, _, hc⟩
    · rw [stepRunsTheDecodedOperation s .command w rest i hin hd hp]
      exact exec_command_busy hp (fun hi => hustep (hi ▸ hd)) (fun hi => hnop (hi ▸ hd)) hs
    · exact step_wrongPort hin hc
    · rw [step_reserved hin hc, reservedWord_command]
      exact congrArg Host.Outcome.next (if_neg hs)
    · exact step_wrongPort hin hc
  · refine ⟨effectOf i s, exec_event_or_ustep (.inl hp) s, ?_⟩
    have hc : i ≠ .cycle := by rintro rfl; cases hp
    have hu : i ≠ .ustep := by rintro rfl; cases hp
    exact (exec_event_or_ustep (.inl hp) _).trans (congrArg Host.Outcome.next (effectOf_setCseq hc hu s n))

end Sys2Proof.Machine
end

section
/-! ### An empty trace, and the commands of the orchestrator (R216, R217, R220, R224) -/
namespace Sys2Proof.Machine

/-- With an empty trace there is nothing to take. -/
theorem taken_nil {s : State} (h : s.inputs = []) : taken s = s := by
  rw [taken, h, List.tail_nil, ← h]
  rfl

theorem nextActivity_nil {s : State} (h : s.inputs = []) :
    nextActivity s = if busy s then .run .ustep else .idle := by
  rw [nextActivity, h]

/-- Settles O10, by whether a control cycle runs. -/
theorem nothingPresentedRunsTheSequencer : Obligations.NothingPresentedRunsTheSequencer := by
  intro s h
  rw [step, nextActivity_nil h, taken_nil h]
  by_cases hs : s.cseq = 0
  · rw [(idle_iff s).mpr hs, if_neg (not_not.mpr hs)]
    rfl
  · rw [(busy_iff s).mpr hs, if_pos hs]
    rfl

/-- A bit vector read as a number and narrowed to a word is resized to the word. -/
theorem u16_code {w : Nat} (v : BitVec w) : u16 (v.toNat : Int) = v.setWidth 16 := by
  rw [u16, BitVec.ofInt_natCast, BitVec.ofNat_toNat]

/-- Settles O14: NOP has no effect but its result, the zero-extended index. -/
theorem nopReturnsTheSequencerIndex : Obligations.NopReturnsTheSequencerIndex := by
  refine ⟨rfl, fun s => ?_⟩
  rw [exec_command_performed (i := .nop) rfl nofun (.inr rfl), ← u16_code]
  rfl

/-- Settles O15: CYCLE is a command whose effect is one write of the index. -/
theorem cycleStartsAControlCycle : Obligations.CycleStartsAControlCycle := by
  refine ⟨rfl, fun s => ?_⟩
  rw [exec_command (i := .cycle) rfl nofun nofun]
  rfl

end Sys2Proof.Machine
end

section
/-! ### Every operation and every step completes (R78, R240) -/
namespace Sys2Proof.Machine

/-- An operation is dropped, or it has its effect, with or without a result; in no case does it stop the block. -/
theorem exec_total (i : Instr) (s : State) : ∃ t, exec i s = .next t := by
  rcases exec_cases i s with hdropped | ⟨_, hsilent⟩ | ⟨_, hanswered⟩
  · exact ⟨_, hdropped⟩
  · exact ⟨_, hsilent⟩
  · exact ⟨_, hanswered⟩

/-- A step that runs an operation completes as the operation does (`exec_total`); every other step has one next state. -/
theorem step_total (s : State) : ∃ t, step s = .next t := by
  rcases step_cases s with ⟨i, _, hrun⟩ | ⟨_, _, hreserved⟩ | ⟨_, hwrongPort⟩ | ⟨_, hreset⟩ | ⟨_, hidle⟩
  · rw [hrun]
    exact exec_total i (taken s)
  · exact ⟨_, hreserved⟩
  · exact ⟨_, hwrongPort⟩
  · exact ⟨_, hreset⟩
  · exact ⟨_, hidle⟩

/-- Settles O51, by what an operation can do (`exec_cases`) and what a step can find to do (`step_cases`). -/
theorem everyOperationCompletes : Obligations.EveryOperationCompletes :=
  ⟨exec_total, step_total⟩

end Sys2Proof.Machine
end

section
/-! ### Right after reset (R270, R271) -/
namespace Sys2Proof.Machine

/-- Settles O12: `step_rst`. -/
theorem resetInputRestoresTheTable : Obligations.ResetInputRestoresTheTable := fun _ _ => step_rst

/-- On the reset state, whose RES is NOT_READY, a command without an effect that returns NOT_READY changes nothing. -/
theorem exec_reset_of_notReady {i : Instr} (hp : i.port = .command) (hu : i ≠ .ustep)
    (heffect : effectOf i State.reset = State.reset) (hresult : resultOf i State.reset = notReady) :
    exec i State.reset = .next State.reset := by
  rw [exec_command_idle hp hu rfl, heffect, hresult]
  rfl

/-- Nothing has been published at reset (R54). -/
theorem not_adcReadable_reset : ¬ adcReadable State.reset = true := (not_adcReadable_iff _).mpr (.inr rfl)

/-- Settles O13: the reads find nothing published and nothing captured, no conversion is awaited, and both edge sources
of each channel are disabled. -/
theorem coldBlockReportsNotReady : Obligations.ColdBlockReportsNotReady := by
  obtain ⟨_, hnop⟩ := nopReturnsTheSequencerIndex
  obtain ⟨_, hignored, _⟩ := conversionStoresOrPublishes
  refine ⟨fun c => ?adcRead, fun ch => ?capRead, fun c => ?ldband, rfl, fun raw => hignored raw _ rfl,
    fun ch time => ?evRise, fun ch time => ?evFall, fun k level => exec_event_or_ustep (.inl rfl) _, hnop _,
    reset_duty_get, rfl⟩
  case adcRead => exact exec_reset_of_notReady rfl nofun rfl (adcReadResult_unpublished rfl c)
  case capRead =>
    exact exec_reset_of_notReady rfl nofun rfl (capReadResult_incomplete (congrArg (·.done) (reset_cap_get ch)))
  case ldband =>
    exact exec_reset_of_notReady rfl nofun (loadBand_unready not_adcReadable_reset c)
      (loadBandResult_unready not_adcReadable_reset c)
  case evRise =>
    rw [exec_event_or_ustep (.inl rfl), effectOf, risingEdge_disabled (congrArg (·.enr) (reset_cap_get ch))]
  case evFall =>
    rw [exec_event_or_ustep (.inl rfl), effectOf, fallingEdge_disabled (congrArg (·.enf) (reset_cap_get ch))]

end Sys2Proof.Machine
end

section
/-! ### A sample that is rejected over and over (R203, R281) -/
namespace Sys2Proof.Machine

open Sys2Proof.Safety

/-- After the first sample, one whose error exceeds the maximum leaves the filter as it is, whatever the other
parameters (R203). -/
theorem ewUpdate_rejected {e : EwRecord} {sample maxError : Word} (hfirst : e.first = false)
    (herror : maxError.toInt < |sample.toInt - e.avg.toInt|) (enabled : Bool) (deadBand : Word) :
    ewUpdate e enabled (s16 sample) (s16 deadBand) (s16 maxError) = e := by
  rw [ewUpdate_eq, if_neg (ne_true_of_eq_false hfirst), if_pos herror, ite_self]

theorem setEw_get (s : State) (k : Channel) : setEw s k (s.ew.get k) = s := by
  rw [setEw, Pair.set_get]

/-- An EW_UPDATE that rejects its sample changes nothing but RES. -/
theorem exec_ewUpdate_rejected {k : Channel} {sample maxError : Word} {s : State} (hs : s.cseq = 0)
    (hfirst : (s.ew.get k).first = false) (herror : maxError.toInt < |sample.toInt - (s.ew.get k).avg.toInt|)
    (enabled : Bool) (deadBand : Word) :
    exec (.ewUpdate k enabled sample deadBand maxError) s = .next (setRes s (readyWord (s.ew.get k).avg)) := by
  rw [exec_command_idle (i := .ewUpdate k enabled sample deadBand maxError) rfl nofun hs, effectOf, resultOf,
    ewUpdate_rejected hfirst herror, setEw_get]

/-- Settles O50, by induction on the number of updates: each leaves a state in which the next is rejected again. -/
theorem largeStepIsNeverFollowed : Obligations.LargeStepIsNeverFollowed := by
  intro k enabled sample deadBand maxError s n hs hfirst herror
  induction n generalizing s with
  | zero => exact ⟨s, rfl, rfl⟩
  | succ n ih =>
    obtain ⟨t, ht, hew⟩ := ih (setRes s (readyWord (s.ew.get k).avg)) hs hfirst herror
    rw [List.replicate_succ, runOps_cons (exec_ewUpdate_rejected hs hfirst herror enabled deadBand)]
    exact ⟨t, ht, hew⟩

end Sys2Proof.Machine
end

section
/-! ### A whole control cycle (R217, R219, R220) -/
namespace Sys2Proof.Machine

open Sys2Proof.Safety

/-- The state changes of the first `n` micro-steps of a control cycle, without the index. -/
def microSteps : Nat → State → State
  | 0, s => s
  | n + 1, s => microStep CFG (n + 1) (microSteps n s)

/-- What a micro-step does neither depends on the sequencer index nor changes it. -/
theorem microStep_setCseq (n : Nat) (s : State) (m : BitVec 4) :
    microStep CFG n (setCseq s m) = setCseq (microStep CFG n s) m := by
  rw [microStep_eq, microStep_eq]
  cases h : Statements.controlCycle n with
  | none => rfl
  | some i => exact effectOf_setCseq (controlCycle_ne_cycle h) (controlCycle_ne_ustep h) s m

/-- USTEP at the index `m` of a running cycle. -/
theorem exec_ustep_setCseq {m : BitVec 4} (hm : m ≠ 0) (s : State) :
    exec .ustep (setCseq s m) = .next (setCseq (microStep CFG m.toNat s) (nextCseq m)) := by
  rw [exec_event_or_ustep (.inr rfl), effectOf, sequencerStep, if_pos ((busy_iff _).mpr hm), setCseq_cseq,
    microStep_setCseq]
  rfl

/-- The index after `n` of the eight micro-steps, which returns to 0 after the last (R220). -/
def indexAfter (n : Nat) : BitVec 4 := BitVec.ofNat 4 ((n + 1) % 9)

theorem indexAfter_next : ∀ n < 8, indexAfter n ≠ 0 ∧ (indexAfter n).toNat = n + 1 ∧
    nextCseq (indexAfter n) = indexAfter (n + 1) := by
  decide

theorem runOps_usteps {n : Nat} (hn : n ≤ 8) (s : State) :
    runOps (List.replicate n .ustep) (setCseq s 1) = some (setCseq (microSteps n s) (indexAfter n)) := by
  induction n with
  | zero => rfl
  | succ n ih =>
    obtain ⟨hrunning, hindex, hnext⟩ := indexAfter_next n hn
    have hstep := exec_ustep_setCseq hrunning (microSteps n s)
    rw [hindex, hnext] at hstep
    rw [List.replicate_succ']
    exact runOps_snoc (ih (Nat.le_of_succ_le hn)) hstep

/-- CYCLE and eight USTEP on an idle block: the effects of all eight micro-steps, and the result of CYCLE. -/
theorem runOps_controlCycle {s : State} (hs : s.cseq = 0) :
    runOps (.cycle :: List.replicate 8 .ustep) s = some (setCseq (microSteps 8 (setRes s (ready 0))) 0) := by
  rw [runOps_cons (exec_command_idle (i := .cycle) rfl nofun hs)]
  exact runOps_usteps le_rfl (setRes s (ready 0))

end Sys2Proof.Machine
end

section
/-! ### A control cycle on a block that was not booted (R273) -/
namespace Sys2Proof.Machine

open Sys2Proof.Safety

/-- A control channel as reset leaves it (R54): values 0, mode Local, a band position that maps to 0, and the output
off. -/
structure Unbooted (k : Channel) (s : State) : Prop where
  control : s.cc.get k = ⟨0, 0, 7, .localMode, 0⟩
  output : s.duty.get k = 0

section
variable {k : Channel} {s : State}

theorem unbooted_of_reset (hcc : s.cc = State.reset.cc) (hduty : s.duty = State.reset.duty) : Unbooted k s where
  control := by rw [hcc, reset_cc_get]
  output := by rw [hduty, reset_duty_get]

theorem setCc_of_get {r : ControlRecord} (h : s.cc.get k = r) : setCc s k r = s := by
  rw [← h, setCc, Pair.set_get]

theorem setDuty_of_get {v : Word} (h : s.duty.get k = v) : setDuty s k v = s := by
  rw [← h, setDuty, Pair.set_get]

/-- Any fraction of 0 is 0 (R173). -/
theorem limited_zero (tier : BitVec 2) : limited CFG tier 0 = 0 := by
  apply BitVec.eq_of_toInt_eq
  rw [limited_toInt, tdiv_eq]
  simp

theorem condition_of_unbooted (h : Unbooted k s) : condition CFG k s = s := by
  have hlocal : (s.cc.get k).band ≠ bandExternal := by
    rw [h.control]
    decide
  rw [condition_local hlocal, localBranch, h.control]
  exact setCc_of_get h.control

theorem powerLimit_of_unbooted (h : Unbooted k s) : powerLimit CFG k s = s := by
  rw [powerLimit, h.control, limited_zero]
  exact setCc_of_get h.control

/-- Of the pipeline only the output gate may act, and only with OUT_GATE = 0: the output is rewritten with its value
0. -/
theorem channelPipeline_of_unbooted (h : Unbooted k s) :
    channelPipeline CFG k s =
      { s with pulses := if 1 ≤ CFG.outGate then s.pulses else .dutyWr k 0 :: s.pulses } := by
  have hduty : clampedDuty 0 = 0 := by decide
  have hgate : (CFG.outGate : Int) ≤ |(0 : Word).toInt - (0 : Word).toNat| ↔ ¬ 1 ≤ CFG.outGate := by
    simp
  rw [channelPipeline, condition_of_unbooted h, powerLimit_of_unbooted h, outputGate_eq, h.control, h.output,
    if_congr hgate rfl rfl, ite_not]
  dsimp only
  rw [hduty, setDuty_of_get h.output]
  split <;> rfl

end

/-- The first five micro-steps: no band position and no tier is published to load, and the pipelines act on two
channels that are off. -/
theorem microSteps_five_reset (r : ResultWord) :
    microSteps 5 (setRes State.reset r) =
      { State.reset with
        res := r
        pulses := if 1 ≤ CFG.outGate then [] else [.dutyWr .ch1 0, .dutyWr .ch0 0] } := by
  have hload : microSteps 3 (setRes State.reset r) = setRes State.reset r := by
    have hunready : ¬ adcReadable (setRes State.reset r) = true := not_adcReadable_reset
    simp only [microSteps, microStep, loadBand_unready hunready]
  have hzero : Unbooted .ch0 (setRes State.reset r) := unbooted_of_reset rfl rfl
  have hone (p : List Pulse) : Unbooted .ch1 { setRes State.reset r with pulses := p } :=
    unbooted_of_reset rfl rfl
  rw [microSteps, microSteps, hload]
  change channelPipeline CFG .ch1 (channelPipeline CFG .ch0 (setRes State.reset r)) = _
  rw [channelPipeline_of_unbooted hzero, channelPipeline_of_unbooted (hone _)]
  split <;> rfl

/-- Settles O19: the last three micro-steps start a batch and arm both captures on what the first five leave. -/
theorem unbootedCycleStartsTheEngines : Obligations.UnbootedCycleStartsTheEngines := by
  refine ⟨_, runOps_controlCycle rfl, ?_⟩
  rw [microSteps, microSteps, microSteps, microSteps_five_reset]
  refine ⟨rfl, fun ch => ?_, rfl, rfl, rfl, rfl, rfl, reset_duty_get, rfl, ?_⟩
  · cases ch <;> rfl
  · exact apply_ite (Pulse.adcReq 0 :: ·) _ _ _

end Sys2Proof.Machine
end
